-- ==== Sys2Proof/Word.lean ====
section
/-! DEFINITION. The word types of the UPTIME block: every value is an unsigned bit vector of a fixed
width (00_scope.md rules R6 to R8), and `+`, `*` and `-` on them are the rules' modular operations. -/

namespace Sys2Proof

/-- A 32-bit value: `UPTIME`, `RES`, a composed timestamp, a duration (00_scope.md rule R6, `W_CNT = W_US = 32`). -/
abbrev Word := BitVec 32

/-- The in-period tick register's value (00_scope.md rule R6, `W_TICK = 16`). -/
abbrev Tick := BitVec 16

/-- One 64-bit command word (30_encoding.md rule R47). -/
abbrev CommandWord := BitVec 64

/-- One byte of a command word or a result carried as bytes (20_memory.md rule R37). -/
abbrev Byte := BitVec 8

/-- A flag used as the number 0 or 1, 32 bits wide (00_scope.md rule R8, `zext_32`). -/
def flagWord (b : Bool) : Word := if b then 1 else 0

/-- A tick register's value widened to 32 bits with zeros (00_scope.md rule R8, `zext_32`). -/
def tickWord (t : Tick) : Word := t.setWidth 32

end Sys2Proof
end

