-- ==== Sys2Proof/Syntax.lean ====
section
/-! DEFINITION. The nine commands of the block, one constructor per row of spec/opcode_table.json
(30_encoding.md rule R49). The admitted subset is these nine exactly (00_scope.md rule R5). -/

namespace Sys2Proof

/-- A command. The delays carry `ARG`, the whole range of 32-bit durations (30_encoding.md rule R48);
no other command has an operand, and there are no register operands. -/
inductive Instr where
  | init
  | deinit
  | reset
  | suspend
  | resume
  | millis
  | micros
  | delayMs (d : Word)
  | delayUs (d : Word)
  deriving DecidableEq, Repr

/-- The three fields of format `C` (30_encoding.md rule R47), before any check on them. -/
structure Fields where
  op   : BitVec 8
  rsvd : BitVec 24
  arg  : Word
  deriving DecidableEq, Repr

end Sys2Proof
end

