-- ==== Sys2Proof/WellFormed.lean ====
section
/-! DEFINITION. What makes the fields of a command word, or the duration written in a program, well
formed (30_encoding.md rules R47, R51 and R53). An `Instr` needs no check of its own: its one operand
has exactly the 32 bits of `ARG`. -/

namespace Sys2Proof

/-- The opcodes of the commands without an operand (30_encoding.md rule R49). -/
def bareOpcodes : List (BitVec 8) := [0x01, 0x02, 0x03, 0x04, 0x05, 0x10, 0x11]

/-- The opcodes of the delays, which use `ARG` (30_encoding.md rule R49). -/
def delayOpcodes : List (BitVec 8) := [0x20, 0x21]

/-- `OP` is one of the nine assigned values (30_encoding.md rule R51). -/
def Fields.opcodeKnown (f : Fields) : Bool := bareOpcodes.contains f.op || delayOpcodes.contains f.op

/-- `RSVD = 0` (30_encoding.md rule R47). -/
def Fields.reservedZero (f : Fields) : Bool := f.rsvd == 0

/-- `ARG = 0` unless the opcode takes an operand (30_encoding.md rule R47). -/
def Fields.operandAllowed (f : Fields) : Bool := delayOpcodes.contains f.op || f.arg == 0

/-- The fields of a legal command word (30_encoding.md rule R51). -/
def Fields.wellFormed (f : Fields) : Bool := f.opcodeKnown && f.reservedZero && f.operandAllowed

/-- A duration literal of the assembler is in `0..2^32 − 1` (30_encoding.md rule R53). -/
def durationInRange (n : Nat) : Bool := n < 2 ^ 32

end Sys2Proof
end

