-- ==== Sys2Proof/Decode.lean ====
section
/-! DEFINITION. Decoding a command word, total on every 64-bit word (30_encoding.md rule R50), the bytes
that may carry one (20_memory.md rule R37), the encoder, and the opcode table's rows. -/

namespace Sys2Proof

/-! ### Decoding a word -/

/-- Why a word is an illegal command (30_encoding.md rule R51); the block itself makes no difference
between them: each raises `ILLEGAL_COMMAND`. -/
inductive Illegal where
  | reservedBits
  | operandBits
  | unknownOpcode
  deriving DecidableEq, Repr

/-- The fields of a word: `OP = w[7:0]`, `RSVD = w[31:8]`, `ARG = w[63:32]` (30_encoding.md rule R47). -/
def fieldsOf (w : CommandWord) : Fields :=
  { op := w.extractLsb' 0 8, rsvd := w.extractLsb' 8 24, arg := w.extractLsb' 32 32 }

/-- The command of an opcode without an operand (30_encoding.md rule R49). -/
def bareCommand (op : BitVec 8) : Option Instr :=
  if op = 0x01 then some .init
  else if op = 0x02 then some .deinit
  else if op = 0x03 then some .reset
  else if op = 0x04 then some .suspend
  else if op = 0x05 then some .resume
  else if op = 0x10 then some .millis
  else if op = 0x11 then some .micros
  else none

/-- The command of a delay's opcode with its operand (30_encoding.md rules R48 and R49). -/
def delayCommand (op : BitVec 8) (arg : Word) : Option Instr :=
  if op = 0x20 then some (.delayMs arg)
  else if op = 0x21 then some (.delayUs arg)
  else none

/-- The command of a word's fields, the checks in the order of 30_encoding.md rule R50. -/
def decodeFields (f : Fields) : Except Illegal Instr :=
  if f.rsvd = 0 then
    match bareCommand f.op with
    | some i => if f.arg = 0 then .ok i else .error .operandBits
    | none =>
      match delayCommand f.op f.arg with
      | some i => .ok i
      | none => .error .unknownOpcode
  else .error .reservedBits

/-- The decoder (30_encoding.md rule R50). -/
def decode (w : CommandWord) : Except Illegal Instr := decodeFields (fieldsOf w)

/-! ### Bytes -/

/-- Byte `k` of a command word, `word[8k+7 : 8k]` (20_memory.md rule R37). -/
def commandByte (w : CommandWord) (k : Nat) : Byte := w.extractLsb' (8 * k) 8

/-- A command word as its eight bytes, least significant first (20_memory.md rule R37). -/
def commandBytes (w : CommandWord) : List Byte :=
  [commandByte w 0, commandByte w 1, commandByte w 2, commandByte w 3,
   commandByte w 4, commandByte w 5, commandByte w 6, commandByte w 7]

/-- A 32-bit result as its four bytes, least significant first (20_memory.md rule R37). -/
def resultBytes (v : Word) : List Byte :=
  [v.extractLsb' 0 8, v.extractLsb' 8 8, v.extractLsb' 16 8, v.extractLsb' 24 8]

/-- The first command word a byte sequence carries and the bytes after it; fewer than eight bytes are
no command word (20_memory.md rules R37 and R38). -/
def takeCommandWord : List Byte → Option (CommandWord × List Byte)
  | b0 :: b1 :: b2 :: b3 :: b4 :: b5 :: b6 :: b7 :: rest =>
      some (b7 ++ b6 ++ b5 ++ b4 ++ b3 ++ b2 ++ b1 ++ b0, rest)
  | _ => none

/-- Why a byte sequence gives no command. -/
inductive ByteIssue where
  | partialWord
  | illegal (e : Illegal)
  deriving DecidableEq, Repr

/-- Decoding from bytes: every command is exactly eight bytes (30_encoding.md rule R52), the rest is
handed back. -/
def decodeBytes (bs : List Byte) : Except ByteIssue (Instr × List Byte) :=
  match takeCommandWord bs with
  | none => .error .partialWord
  | some (w, rest) =>
    match decode w with
    | .ok i => .ok (i, rest)
    | .error e => .error (.illegal e)

/-! ### Encoding -/

/-- The opcode of a command (30_encoding.md rule R49). -/
def opcodeOf : Instr → BitVec 8
  | .init => 0x01
  | .deinit => 0x02
  | .reset => 0x03
  | .suspend => 0x04
  | .resume => 0x05
  | .millis => 0x10
  | .micros => 0x11
  | .delayMs _ => 0x20
  | .delayUs _ => 0x21

/-- The operand field of a command: its duration, or 0 (30_encoding.md rules R47 and R48). -/
def operandOf : Instr → Word
  | .delayMs d => d
  | .delayUs d => d
  | .init | .deinit | .reset | .suspend | .resume | .millis | .micros => 0

/-- A word laid out from its fields: `ARG ++ RSVD ++ OP` (30_encoding.md rule R47). -/
def wordOf (f : Fields) : CommandWord := f.arg ++ f.rsvd ++ f.op

/-- The encoder: the one word of a command (30_encoding.md rules R47 to R49). -/
def encode (i : Instr) : CommandWord := wordOf { op := opcodeOf i, rsvd := 0, arg := operandOf i }

/-! ### The opcode table -/

/-- A row of spec/opcode_table.json: a mnemonic and the bits a word of it has. -/
structure OpcodeRow where
  mnemonic : String
  pattern  : CommandWord
  mask     : CommandWord
  deriving DecidableEq, Repr

/-- `w & mask = match` (30_encoding.md rule R50). -/
def OpcodeRow.admits (r : OpcodeRow) (w : CommandWord) : Bool := w &&& r.mask == r.pattern

/-- spec/opcode_table.json, row by row. -/
def opcodeTable : List OpcodeRow :=
  [ { mnemonic := "INIT",     pattern := 0x0000000000000001, mask := 0xFFFFFFFFFFFFFFFF },
    { mnemonic := "DEINIT",   pattern := 0x0000000000000002, mask := 0xFFFFFFFFFFFFFFFF },
    { mnemonic := "RESET",    pattern := 0x0000000000000003, mask := 0xFFFFFFFFFFFFFFFF },
    { mnemonic := "SUSPEND",  pattern := 0x0000000000000004, mask := 0xFFFFFFFFFFFFFFFF },
    { mnemonic := "RESUME",   pattern := 0x0000000000000005, mask := 0xFFFFFFFFFFFFFFFF },
    { mnemonic := "MILLIS",   pattern := 0x0000000000000010, mask := 0xFFFFFFFFFFFFFFFF },
    { mnemonic := "MICROS",   pattern := 0x0000000000000011, mask := 0xFFFFFFFFFFFFFFFF },
    { mnemonic := "DELAY_MS", pattern := 0x0000000000000020, mask := 0x00000000FFFFFFFF },
    { mnemonic := "DELAY_US", pattern := 0x0000000000000021, mask := 0x00000000FFFFFFFF } ]

/-- The mnemonic of a command (30_encoding.md rule R49). -/
def Instr.mnemonic : Instr → String
  | .init => "INIT"
  | .deinit => "DEINIT"
  | .reset => "RESET"
  | .suspend => "SUSPEND"
  | .resume => "RESUME"
  | .millis => "MILLIS"
  | .micros => "MICROS"
  | .delayMs _ => "DELAY_MS"
  | .delayUs _ => "DELAY_US"

/-! ### The table's numbering of a command's bits -/

/-- The command word whose bits are `w` below `nbits` and 0 above. DESIGN CHOICE (log entry 25): a partial
word is no command (20_memory.md rule R38), so a probe of fewer than 64 bits stands for the whole word with
zeros above them. -/
def tableWord (nbits w : Nat) : CommandWord := BitVec.ofNat 64 (w % 2 ^ nbits)

/-- What the decoder reads from an instruction whose bits are `w`, numbered as spec/opcode_table.json
numbers them: the word is laid out as bytes and decoded from them. DESIGN CHOICE (log entry 25): fewer than
64 bits are filled up with zeros, and more than 64 bits are no command. -/
def decodeTableWord (nbits w : Nat) : Option Instr :=
  if nbits ≤ 64 then
    match decodeBytes (commandBytes (tableWord nbits w)) with
    | .ok (i, _) => some i
    | .error _ => none
  else none

end Sys2Proof
end

