-- ==== Sys2Proof/Config.lean ====
section
/-! DEFINITION. What is fixed for the block (the parameters of 00_scope.md rule R6) and the one free
value of the model, the choice of the agent that steps next. -/

namespace Sys2Proof

/-- `P`, the period length in ticks (00_scope.md rule R6; 92_eei_decisions.md D4; log entry 6). The
shared operations take the period as an argument; the machine runs with this one. -/
def Config.period : Nat := 1000

/-- `F_OSC` in hertz, read by no rule (00_scope.md rule R6; 93_implementation_defined.md G2). PRESUMED, log entry 16. -/
def Config.oscillatorHz : Nat := 16000000

/-- `DIV`, read by no rule (00_scope.md rule R6; 93_implementation_defined.md G2). PRESUMED, log entry 16. -/
def Config.divider : Nat := 16

/-- `N_INST` (00_scope.md rules R6 and R103). -/
def Config.blocks : Nat := 1

/-- `N_IRQ_LEVELS` (00_scope.md rule R6; 60_exceptions.md rule R96). -/
def Config.irqLevels : Nat := 1

/-- FREE VALUE. Which of the enabled agents takes the step numbered `turn` where the state's schedule
names none: "any one of them may take the next step" (00_scope.md rule R11; 60_exceptions.md rule R96).
Nothing constrains it (log entry 1). -/
opaque Config.freeChoice : Nat → Nat

end Sys2Proof
end

