-- ==== Sys2Proof/Machine/State.lean ====
section
/-! DEFINITION. The state of the block, the record of 10_state.md rule R12, as plain data; the reasons a
step of the model can stop; and the state right after power-on (10_state.md rule R35). -/

namespace Sys2Proof.Machine

/-- The Lifecycle State `LC` (10_state.md rule R26); the code 3 is never written and no state holds it. -/
inductive Lifecycle where
  | uninitialized
  | running
  | suspended
  deriving DecidableEq, Repr

/-- MAIN's wait state `MS` (10_state.md rule R27). -/
inductive WaitState where
  | idle
  | waitOsc
  | waitMs (start d : Word)
  | waitUs (start d : Word)
  deriving DecidableEq, Repr

/-- The four agents (00_scope.md rule R4). -/
inductive Agent where
  | main
  | timer
  | handler
  | osc
  deriving DecidableEq, Repr

/-- The named fault codes (60_exceptions.md rule R91); `handlerNoAck` is reserved and never raised. -/
inductive FaultCode where
  | illegalCommand
  | undefinedQuery
  | illegalTransition
  | handlerNoAck
  deriving DecidableEq, Repr

/-- The state of the block (10_state.md rule R12), then the command stream, which is a parameter of the
run (20_memory.md rule R44), and the model's own two fields. -/
structure State where
  /-- `UPTIME`, rule R13 -/
  uptime : Word
  /-- `TICK`, rule R15 -/
  tick : Tick
  /-- `PEF`, rule R17 -/
  pef : Bool
  /-- `CMF`, rule R18 -/
  cmf : Bool
  /-- `CFG`, rule R19 -/
  cfg : Bool
  /-- `IE`, rule R20 -/
  ie : Bool
  /-- `CNTEN`, rule R21 -/
  cnten : Bool
  /-- `CLKEN`, rule R22 -/
  clken : Bool
  /-- `IRQEN`, rule R23 -/
  irqen : Bool
  /-- `OSCEN`, rule R24 -/
  oscen : Bool
  /-- `OSCRDY`, rule R25 -/
  oscrdy : Bool
  /-- `LC`, rule R26 -/
  lc : Lifecycle
  /-- `MS`, rule R27 -/
  ms : WaitState
  /-- `CP`, rule R32 -/
  cp : Nat
  /-- `RES`, rule R28; `none` is the spec's own value `unwritten` -/
  res : Option Word
  /-- `FAULT`, rule R29 -/
  fault : BitVec 8
  /-- `LOST`, the ghost of rule R30 -/
  lost : Nat
  /-- the command stream, fixed at launch (20_memory.md rule R44); no step writes it -/
  stream : List CommandWord
  /-- the agents the schedule names for the coming steps, the next one first (30_encoding.md rule R55; log entry 1) -/
  sched : List Agent
  /-- how many steps have been taken: the argument of the free choice (log entry 1) -/
  turn : Nat
  deriving DecidableEq, Repr

/-- The power-on draws: the fields of 10_state.md rule R35 whose value is "any". -/
structure PowerOn where
  uptime : Word
  tick : Tick
  pef : Bool
  cmf : Bool
  cfg : Bool
  ie : Bool
  cnten : Bool
  oscen : Bool
  /-- `OSC_POR`, 00_scope.md rule R6 -/
  oscrdy : Bool
  deriving DecidableEq, Repr

/-- Why the machine has no next state. A fault of a command is none of these: it is a next state with
`FAULT` written (60_exceptions.md rule R92). -/
inductive Fault where
  /-- Raised by `step` where no agent is enabled: the spec gives the state no step at all (00_scope.md
  rules R10 and R11). SAFE: the run has ended or hangs. -/
  | noAgentEnabled
  /-- Raised by the host's observation `State.readRes`, never by `step`: `RES` is read while it is
  `unwritten` (10_state.md rule R28). SAFE: no value is made up. -/
  | resUnwritten
  deriving DecidableEq, Repr

/-- Why the model gives no meaning. -/
inductive Refusal where
  /-- Raised by `exec` for an instruction without a meaning yet; no arm of this model does. SAFE. -/
  | notModelled (mnemonic : String)
  /-- Raised by `step` where the schedule names an agent that is not enabled: such a schedule "does not
  describe a run" (30_encoding.md rule R55; 00_scope.md rule R10). SAFE: it is no refusal of a command. -/
  | notEnabled (agent : Agent)
  deriving DecidableEq, Repr

/-- The machine right after power-on (10_state.md rule R35; 70_reset_and_hazards.md rule R106). The
fields whose value is "any" hold 0 here, a DESIGN CHOICE (log entry 3); `State.powerOn` takes them as
arguments. The command stream is empty until the host fixes one (DESIGN CHOICE, log entry 4). -/
def State.reset : State where
  uptime := 0
  tick := 0
  pef := false
  cmf := false
  cfg := false
  ie := false
  cnten := false
  clken := false
  irqen := false
  oscen := false
  oscrdy := false
  lc := .uninitialized
  ms := .idle
  cp := 0
  res := none
  fault := 0
  lost := 0
  stream := []
  sched := []
  turn := 0

end Sys2Proof.Machine
end

