-- ==== Sys2Proof/Machine/Flags.lean ====
section
/-! DEFINITION. The flags `PEF` and `CMF`, the two predicates over the control bits (10_state.md rule
R33), and when each agent has a step. -/

namespace Sys2Proof.Machine

/-- Acknowledge: `PEF <- 0` and `CMF <- 0` (40_tick_and_handler.md rule R62; 43_lifecycle.md rule R89). -/
def State.clearFlags (s : State) : State := { s with pef := false, cmf := false }

/-- The rollover's flags: `PEF <- 1`, and a `PEF` already set counts a lost period
(40_tick_and_handler.md rules R57 and R69). -/
def State.raisePef (s : State) : State :=
  { s with lost := if s.pef then s.lost + 1 else s.lost, pef := true }

/-- `Counting` (10_state.md rule R33). -/
def State.counting (s : State) : Bool := s.clken && s.cnten && s.cfg && s.oscrdy

/-- `IRQ` (10_state.md rule R33), a level (40_tick_and_handler.md rule R61). -/
def State.irq (s : State) : Bool := s.pef && s.ie && s.irqen && s.clken && s.cnten

/-- MAIN has a step: no fault has occurred and a command is left (30_encoding.md rule R50;
60_exceptions.md rule R92; 10_state.md rule R32; log entry 10). -/
def State.mainReady (s : State) : Bool := s.fault == 0 && decide (s.cp < s.stream.length)

/-- Whether an agent has a step (30_encoding.md rule R50; 40_tick_and_handler.md rules R56, R61, R66). -/
def State.enabled (s : State) (a : Agent) : Bool :=
  match a with
  | .main => s.mainReady
  | .timer => s.counting
  | .handler => s.irq
  | .osc => s.oscen && !s.oscrdy

/-- The agents that have a step. -/
def State.enabledAgents (s : State) : List Agent :=
  [Agent.main, Agent.timer, Agent.handler, Agent.osc].filter s.enabled

end Sys2Proof.Machine
end

