-- ==== Sys2Proof/Machine/Ops.lean ====
section
/-! DEFINITION. The named operations the steps share: completing a command, raising a fault, the two
composite actions, fetching, placing a command, power-on, and the host's read of `RES`. -/

namespace Sys2Proof.Machine

/-- `complete`: `MS <- Idle` and `CP <- CP + 1` (00_scope.md rule R9). -/
def State.complete (s : State) : State := { s with ms := .idle, cp := s.cp + 1 }

/-- The number of a fault code (60_exceptions.md rule R91). -/
def FaultCode.code : FaultCode → BitVec 8
  | .illegalCommand => 0x01
  | .undefinedQuery => 0x02
  | .illegalTransition => 0x03
  | .handlerNoAck => 0x04

/-- Taking a fault, `raise Fault(code)`: `FAULT <- code` and no other field changes; MAIN has no step
afterwards because it needs `FAULT = 0` (60_exceptions.md rule R92). There is no return from a fault:
only power-on clears it. -/
def State.raiseFault (s : State) (c : FaultCode) : State := { s with fault := c.code }

/-- `ResetAction` (43_lifecycle.md rule R89). -/
def State.resetAction (s : State) : State := { s.clearFlags with uptime := 0, tick := 0, lost := 0 }

/-- `StartAction` (43_lifecycle.md rule R89). -/
def State.startAction (s : State) : State :=
  { s with clken := true, cfg := true, ie := true, irqen := true, cnten := true }

/-- The end of `INIT`: `StartAction`, `LC <- Running`, `complete` (43_lifecycle.md rules R83 and R84). -/
def State.finishInit (s : State) : State := { s.startAction with lc := .running }.complete

/-- The 2-bit code of `LC` (10_state.md rule R26). -/
def Lifecycle.code : Lifecycle → BitVec 2
  | .uninitialized => 0
  | .running => 1
  | .suspended => 2

/-- The lifecycle state of a code; 3 is no state (10_state.md rule R26; 93_implementation_defined.md U10). -/
def Lifecycle.ofCode (c : BitVec 2) : Option Lifecycle :=
  if c = 0 then some .uninitialized
  else if c = 1 then some .running
  else if c = 2 then some .suspended
  else none

/-- The word at `CP`, if the stream has one (30_encoding.md rules R50 and R52). -/
def State.fetch (s : State) : Option CommandWord := s.stream[s.cp]?

/-- One step's bookkeeping of the model itself: the schedule's head is used up and the step is counted. -/
def State.advance (s : State) : State := { s with sched := s.sched.tail, turn := s.turn + 1 }

/-- The host loads `w` as the command MAIN fetches in the very next step (log entry 4): the stream holds
`w` at `CP`, MAIN is idle and not faulted, and the schedule names MAIN next. -/
def State.placeCommand (s : State) (w : CommandWord) : State :=
  { s with
    stream := s.stream.take s.cp ++ List.replicate (s.cp - s.stream.length) 0 ++ w :: s.stream.drop (s.cp + 1)
    ms := .idle
    fault := 0
    sched := .main :: s.sched }

/-- The state at power-on with the draws `d`, for a run over `stream` (10_state.md rule R35). -/
def State.powerOn (d : PowerOn) (stream : List CommandWord) : State where
  uptime := d.uptime
  tick := d.tick
  pef := d.pef
  cmf := d.cmf
  cfg := d.cfg
  ie := d.ie
  cnten := d.cnten
  clken := false
  irqen := false
  oscen := d.oscen
  oscrdy := d.oscrdy
  lc := .uninitialized
  ms := .idle
  cp := 0
  res := none
  fault := 0
  lost := 0
  stream := stream
  sched := []
  turn := 0

/-- A power-on reset during a run: the start of a run over the same stream, which ends every wait and
clears `FAULT` (70_reset_and_hazards.md rule R106; log entry 9). It is the host's, not an agent's step,
and it does not touch the model's own schedule. -/
def State.powerOnReset (s : State) (d : PowerOn) : State :=
  { State.powerOn d s.stream with sched := s.sched, turn := s.turn }

/-- The host's read of `RES`: it changes nothing, and an `unwritten` register has no value
(10_state.md rule R28; 20_memory.md rule R46). -/
def State.readRes (s : State) : Host.Outcome Word Fault Refusal :=
  match s.res with
  | some v => .next v
  | none => .fault .resUnwritten

end Sys2Proof.Machine
end

