-- ==== Sys2Proof/Machine/Operands.lean ====
section
/-! DEFINITION. The values the commands read: the counter, the tick composition engine
(41_time_query.md rule R71), and the comparison of a wait (42_delay.md rule R78). -/

namespace Sys2Proof.Machine

/-- The composition of a count, a pending flag and a tick for a period of `p` ticks:
`((c +_32 f) *_32 P) +_32 t` (41_time_query.md rule R71). -/
def compose (p : Nat) (c : Word) (f : Bool) (t : Tick) : Word :=
  (c + flagWord f) * BitVec.ofNat 32 p + tickWord t

/-- `Snapshot()`: the three fields of one state, composed (41_time_query.md rule R71). -/
def State.snapshot (s : State) : Word := compose Config.period s.uptime s.pef s.tick

/-- `a ≥u b` (00_scope.md rule R8). -/
def uge (a b : Word) : Bool := decide (b.toNat ≤ a.toNat)

/-- `now −_32 start ≥u d`, the condition a delay waits for (42_delay.md rule R78). -/
def waitOver (now start d : Word) : Bool := uge (now - start) d

end Sys2Proof.Machine
end

