-- ==== Sys2Proof/Machine/Agents.lean ====
section
/-! DEFINITION. The steps of the agents that run on their own: TIMER, HANDLER and OSC
(40_tick_and_handler.md rules R56 to R67). -/

namespace Sys2Proof.Machine

/-- One tick of a timer whose period is `p` ticks (40_tick_and_handler.md rule R57). -/
def State.timerTick (p : Nat) (s : State) : State :=
  if s.tick.toNat = p - 1 then { s.raisePef with tick := 0 } else { s with tick := s.tick + 1 }

/-- The TIMER's step (40_tick_and_handler.md rule R57). -/
def State.timerStep (s : State) : State := s.timerTick Config.period

/-- The HANDLER's step: taking the period-elapsed interrupt, running its handler and returning, all in
one step that saves nothing (40_tick_and_handler.md rules R62 and R63; 60_exceptions.md rules R97, R98). -/
def State.handlerStep (s : State) : State := { s.clearFlags with uptime := s.uptime + 1 }

/-- The OSC agent's step (40_tick_and_handler.md rule R66). -/
def State.oscStep (s : State) : State := { s with oscrdy := true }

end Sys2Proof.Machine
end

