-- ==== Sys2Proof/Machine/Queries.lean ====
section
/-! DEFINITION. The time queries (41_time_query.md rules R70 and R71). -/

namespace Sys2Proof.Machine

/-- A use of the timebase: in Uninitialized it is `UNDEFINED_QUERY` (41_time_query.md rules R70 and R71;
42_delay.md rules R76 and R77; 60_exceptions.md rule R91), otherwise it leads to `t`. -/
def guardQuery (s t : State) : Host.Outcome State Fault Refusal :=
  if s.lc = .uninitialized then .next (s.raiseFault .undefinedQuery) else .next t

/-- The effect of a query: `RES <- v`, `complete`. -/
def State.answer (s : State) (v : Word) : State := { s with res := some v }.complete

/-- `MILLIS` (41_time_query.md rule R70). -/
def execMillis (s : State) : Host.Outcome State Fault Refusal := guardQuery s (s.answer s.uptime)

/-- `MICROS` (41_time_query.md rule R71). -/
def execMicros (s : State) : Host.Outcome State Fault Refusal := guardQuery s (s.answer s.snapshot)

end Sys2Proof.Machine
end

