-- ==== Sys2Proof/Machine/Delays.lean ====
section
/-! DEFINITION. The blocking delays and their polls (42_delay.md rules R76 to R78). -/

namespace Sys2Proof.Machine

/-- The first step of a delay that starts at `start` and would wait as `wait` (42_delay.md rules R76 and R77). -/
def State.beginDelay (s : State) (start d : Word) (wait : WaitState) : State :=
  if waitOver start start d then s.complete else { s with ms := wait }

/-- One poll of a delay: it completes when the difference has reached `d`, and else nothing changes
(42_delay.md rule R78). -/
def State.pollDelay (s : State) (now start d : Word) : State :=
  if waitOver now start d then s.complete else s

/-- `DELAY_MS d`, its first step (42_delay.md rule R76). -/
def execDelayMs (d : Word) (s : State) : Host.Outcome State Fault Refusal :=
  guardQuery s (s.beginDelay s.uptime d (.waitMs s.uptime d))

/-- `DELAY_US d`, its first step (42_delay.md rule R77). -/
def execDelayUs (d : Word) (s : State) : Host.Outcome State Fault Refusal :=
  guardQuery s (s.beginDelay s.snapshot d (.waitUs s.snapshot d))

end Sys2Proof.Machine
end

