-- ==== Sys2Proof/Machine/Lifecycle.lean ====
section
/-! DEFINITION. The lifecycle commands (43_lifecycle.md rules R81 to R88) and the oscillator poll. -/

namespace Sys2Proof.Machine

/-- `INIT`, its first step (43_lifecycle.md rule R83). -/
def execInit (s : State) : Host.Outcome State Fault Refusal :=
  let started := { s.resetAction with oscen := true }
  if started.oscrdy then .next started.finishInit else .next { started with ms := .waitOsc }

/-- `INIT`, one poll of its oscillator wait (43_lifecycle.md rule R84). -/
def State.pollOsc (s : State) : State := if s.oscrdy then s.finishInit else s

/-- `DEINIT` (43_lifecycle.md rule R88). -/
def execDeinit (s : State) : Host.Outcome State Fault Refusal :=
  let stopped := { s with irqen := false, clken := false }
  .next { stopped.resetAction with lc := .uninitialized }.complete

/-- `RESET` (43_lifecycle.md rule R82). -/
def execReset (s : State) : Host.Outcome State Fault Refusal := .next s.resetAction.complete

/-- A transition out of one lifecycle state: anywhere else it is `ILLEGAL_TRANSITION` (43_lifecycle.md
rules R86 and R87; 60_exceptions.md rule R91). -/
def transition (source target : Lifecycle) (count : Bool) (s : State) : Host.Outcome State Fault Refusal :=
  if s.lc = source then .next { s with cnten := count, lc := target }.complete
  else .next (s.raiseFault .illegalTransition)

/-- `SUSPEND` (43_lifecycle.md rule R86). -/
def execSuspend (s : State) : Host.Outcome State Fault Refusal := transition .running .suspended false s

/-- `RESUME` (43_lifecycle.md rule R87). -/
def execResume (s : State) : Host.Outcome State Fault Refusal := transition .suspended .running true s

end Sys2Proof.Machine
end

