-- ==== Sys2Proof/Machine/Dispatch.lean ====
section
/-! DEFINITION. From a command to its meaning (30_encoding.md rule R49). -/

namespace Sys2Proof.Machine

def exec (i : Instr) (s : State) : Host.Outcome State Fault Refusal :=
  match i with
  | .init => Sys2Proof.Machine.execInit s
  | .deinit => Sys2Proof.Machine.execDeinit s
  | .reset => Sys2Proof.Machine.execReset s
  | .suspend => Sys2Proof.Machine.execSuspend s
  | .resume => Sys2Proof.Machine.execResume s
  | .millis => Sys2Proof.Machine.execMillis s
  | .micros => Sys2Proof.Machine.execMicros s
  | .delayMs d => Sys2Proof.Machine.execDelayMs d s
  | .delayUs d => Sys2Proof.Machine.execDelayUs d s

end Sys2Proof.Machine
end

