-- ==== Sys2Proof/Machine/Main.lean ====
section
/-! DEFINITION. MAIN's step, the step of each agent, and the choice of the agent that steps next
(00_scope.md rules R4, R10 and R11; 30_encoding.md rule R50). -/

namespace Sys2Proof.Machine

/-- Fetch, decode and perform a word, all in one step; an illegal word faults (30_encoding.md rules R50, R51). -/
def performWord (w : CommandWord) (s : State) : Host.Outcome State Fault Refusal :=
  match decode w with
  | .ok i => exec i s
  | .error _ => .next (s.raiseFault .illegalCommand)

/-- MAIN's step: a fetch when idle, else a poll of the wait (30_encoding.md rule R50; 42_delay.md rule
R78; 43_lifecycle.md rule R84). -/
def mainStep (s : State) : Host.Outcome State Fault Refusal :=
  match s.ms with
  | .idle =>
    match s.fetch with
    | some w => performWord w s
    | none => .refused (.notEnabled .main)
  | .waitOsc => .next s.pollOsc
  | .waitMs start d => .next (s.pollDelay s.uptime start d)
  | .waitUs start d => .next (s.pollDelay s.snapshot start d)

/-- The step of one agent, where it is enabled. -/
def agentStep (a : Agent) (s : State) : Host.Outcome State Fault Refusal :=
  match a with
  | .main => mainStep s
  | .timer => .next s.timerStep
  | .handler => .next s.handlerStep
  | .osc => .next s.oscStep

/-- One agent's turn: an agent that is not enabled has no step (00_scope.md rule R10). -/
def runAgent (a : Agent) (s : State) : Host.Outcome State Fault Refusal :=
  if s.enabled a then agentStep a s else .refused (.notEnabled a)

/-- One of a list, by a number that may be anything; a single choice needs no number. -/
def pick (choices : List Agent) (n : Nat) : Option Agent :=
  match choices with
  | [] => none
  | [a] => some a
  | a :: b :: more => (a :: b :: more)[n % (more.length + 2)]?

/-- The agent that steps next: the one the schedule names, else a free choice among the enabled ones
(00_scope.md rule R11; log entry 1). -/
def State.nextAgent (s : State) : Option Agent :=
  match s.sched with
  | a :: _ => some a
  | [] => pick s.enabledAgents (Config.freeChoice s.turn)

/-- One step of the run: the next agent's turn, on the state with the schedule moved on. -/
def takeTurn (s : State) : Host.Outcome State Fault Refusal :=
  match s.nextAgent with
  | some a => runAgent a s.advance
  | none => .fault .noAgentEnabled

end Sys2Proof.Machine
end

