-- ==== Sys2Proof/Machine/Step.lean ====
section
/-! DEFINITION. The one step function of the machine, and the placing of a command for the next step. -/

namespace Sys2Proof.Machine

/-- One step of a run: one atomic step of one agent (00_scope.md rule R11). -/
def step (s : State) : Host.Outcome State Fault Refusal := takeTurn s

/-- The state with the command whose bits are `w` placed so that the next step is MAIN's fetch of it (log
entry 4). A word of fewer than 64 bits is filled up with zeros (DESIGN CHOICE, log entry 25). -/
def State.withFetchWord (s : State) (nbits w : Nat) : State := s.placeCommand (tableWord nbits w)

end Sys2Proof.Machine
end

