-- ==== Sys2Proof/Machine/Assembler.lean ====
section
/-! DEFINITION. The assembler's side of a command: a line of text and the word it stands for
(30_encoding.md rule R53). Text is a list of characters. -/

namespace Sys2Proof.Machine

/-- Why a line is refused. -/
inductive AsmIssue where
  | unknownMnemonic
  | missingDuration
  | extraText
  | badLiteral
  | outOfRange
  deriving DecidableEq, Repr

/-- The line without its comment: "Text after `;` is a comment" (30_encoding.md rule R53). -/
def stripComment (line : List Char) : List Char := line.takeWhile (· ≠ ';')

/-- A blank between the parts of a line (log entry 19). -/
def isBlank (c : Char) : Bool := c = ' ' || c = '\t'

/-- The parts of a line, `part` being the one under way (log entry 19). -/
def partsFrom (part : List Char) : List Char → List (List Char)
  | [] => if part = [] then [] else [part]
  | c :: rest =>
    if isBlank c then (if part = [] then partsFrom [] rest else part :: partsFrom [] rest)
    else partsFrom (part ++ [c]) rest

/-- The value of a digit of base ten or sixteen (log entry 19: both cases of the letters). -/
def digitValue (base : Nat) (c : Char) : Option Nat :=
  let n := c.toNat
  let v :=
    if 48 ≤ n ∧ n ≤ 57 then n - 48
    else if 65 ≤ n ∧ n ≤ 70 then n - 55
    else if 97 ≤ n ∧ n ≤ 102 then n - 87
    else base
  if v < base then some v else none

/-- The number a run of digits stands for, `acc` being the digits read so far. -/
def digitsFrom (base : Nat) (acc : Nat) : List Char → Option Nat
  | [] => some acc
  | c :: rest =>
    match digitValue base c with
    | some v => digitsFrom base (acc * base + v) rest
    | none => none

/-- A run of at least one digit. -/
def digits (base : Nat) (cs : List Char) : Option Nat := if cs = [] then none else digitsFrom base 0 cs

/-- A duration literal: decimal, or hexadecimal after `0x` with `_` as a separator that carries no
meaning (30_encoding.md rule R53; 00_scope.md rule R7). -/
def literal : List Char → Option Nat
  | '0' :: 'x' :: rest => digits 16 (rest.filter (· ≠ '_'))
  | cs => digits 10 cs

/-- The command of a mnemonic that takes no duration (30_encoding.md rules R49 and R53). -/
def bareMnemonic (m : List Char) : Option Instr :=
  if m = ['I', 'N', 'I', 'T'] then some .init
  else if m = ['D', 'E', 'I', 'N', 'I', 'T'] then some .deinit
  else if m = ['R', 'E', 'S', 'E', 'T'] then some .reset
  else if m = ['S', 'U', 'S', 'P', 'E', 'N', 'D'] then some .suspend
  else if m = ['R', 'E', 'S', 'U', 'M', 'E'] then some .resume
  else if m = ['M', 'I', 'L', 'L', 'I', 'S'] then some .millis
  else if m = ['M', 'I', 'C', 'R', 'O', 'S'] then some .micros
  else none

/-- The delay of a mnemonic with its duration (30_encoding.md rules R49 and R53). -/
def delayMnemonic (m : List Char) (d : Word) : Option Instr :=
  if m = ['D', 'E', 'L', 'A', 'Y', '_', 'M', 'S'] then some (.delayMs d)
  else if m = ['D', 'E', 'L', 'A', 'Y', '_', 'U', 'S'] then some (.delayUs d)
  else none

/-- A delay written with the duration literal `n`; a literal out of range is refused, it does not wrap
(30_encoding.md rule R53). -/
def assembleDelay (m n : List Char) : Except AsmIssue Instr :=
  match literal n with
  | none => .error .badLiteral
  | some v =>
    if durationInRange v then
      match delayMnemonic m (BitVec.ofNat 32 v) with
      | some i => .ok i
      | none => .error .unknownMnemonic
    else .error .outOfRange

/-- The command a line stands for; a line without text stands for none (log entry 19). -/
def parseLine (line : List Char) : Except AsmIssue (Option Instr) :=
  match partsFrom [] (stripComment line) with
  | [] => .ok none
  | [m] =>
    match bareMnemonic m with
    | some i => .ok (some i)
    | none => .error (if (delayMnemonic m 0).isSome then .missingDuration else .unknownMnemonic)
  | [m, n] =>
    if (bareMnemonic m).isSome then .error .extraText
    else
      match assembleDelay m n with
      | .ok i => .ok (some i)
      | .error e => .error e
  | _ => .error .extraText

/-- The command words of a program, one command on each line (30_encoding.md rule R53). -/
def assemble : List (List Char) → Except AsmIssue (List CommandWord)
  | [] => .ok []
  | line :: rest =>
    match parseLine line with
    | .error e => .error e
    | .ok none => assemble rest
    | .ok (some i) =>
      match assemble rest with
      | .ok ws => .ok (encode i :: ws)
      | .error e => .error e

end Sys2Proof.Machine
end

