-- ==== Sys2Proof/Machine/Schedule.lean ====
section
/-! DEFINITION. Running named agents one after another, and the events a schedule is written with
(30_encoding.md rule R55). Events are no commands and have no encoding. -/

namespace Sys2Proof.Machine

/-- The steps of a list of agents, one after another; none where an agent named has no step
(00_scope.md rule R11; 30_encoding.md rule R55: such a schedule does not describe a run). -/
def runAgents : List Agent → State → Option State
  | [], s => some s
  | a :: rest, s =>
    match runAgent a s with
    | .next t => runAgents rest t
    | .fault _ => none
    | .refused _ => none

/-- `[tick n]`, `[irq]`, `[osc]`, `[period]`, `[poll]`, and a command's own step. -/
inductive Event where
  | tick (n : Nat)
  | irq
  | osc
  | period
  | poll
  | command
  deriving DecidableEq, Repr

/-- The agents an event lets step, in order (30_encoding.md rule R55). DESIGN CHOICE (log entry 29): the rule
defines `[period]` from `TICK = 0`; from another `TICK` it stands for the same steps here, `P` of the TIMER
and one of the HANDLER. -/
def Event.agents : Event → List Agent
  | .tick n => List.replicate n .timer
  | .irq => [.handler]
  | .osc => [.osc]
  | .period => List.replicate Config.period .timer ++ [.handler]
  | .poll => [.main]
  | .command => [.main]

/-- Whether MAIN is where the event needs it: `[poll]` is a MAIN step of a wait, and a command's own step is
one of an idle MAIN (30_encoding.md rules R50 and R55). -/
def Event.fits (e : Event) (s : State) : Bool :=
  match e with
  | .poll => s.ms != .idle
  | .command => s.ms == .idle
  | .tick _ | .irq | .osc | .period => true

/-- One event's steps; none where it names a step that is not enabled (30_encoding.md rule R55). -/
def runEvent (e : Event) (s : State) : Option State := if e.fits s then runAgents e.agents s else none

/-- A schedule's steps; none where it does not describe a run (30_encoding.md rule R55). -/
def runEvents : List Event → State → Option State
  | [], s => some s
  | e :: rest, s =>
    match runEvent e s with
    | some t => runEvents rest t
    | none => none

/-- The agents of a schedule, if it describes a run from `s` (30_encoding.md rule R55). -/
def scheduleOf (events : List Event) (s : State) : Option (List Agent) :=
  if (runEvents events s).isSome then some (events.flatMap Event.agents) else none

end Sys2Proof.Machine
end

