-- ==== Sys2Proof/Machine/Observe.lean ====
section
/-! DEFINITION. The end of a run and its observation (70_reset_and_hazards.md rule R119). -/

namespace Sys2Proof.Machine

/-- The end of a run (70_reset_and_hazards.md rule R119). DESIGN CHOICE (log entry 28): a run over an empty
command stream, which has no last command to complete, counts as ended at power-on. -/
def State.ended (s : State) : Bool := decide (s.cp = s.stream.length) && s.ms == .idle && s.fault == 0

/-- The command MAIN fetches next is a query. -/
def State.atQuery (s : State) : Bool :=
  s.ms == .idle && (s.fetch == some (encode .millis) || s.fetch == some (encode .micros))

/-- The value a step adds to the observation of a run: `RES` after a command that writes it. -/
def observed (a : Agent) (s t : State) : List Word :=
  if a = .main ∧ s.atQuery = true ∧ t.fault = 0 then t.res.toList else []

/-- The observation of a run that these agents' steps lead to its end: the state at the end, and the value of
`RES` after each command that writes it. A run that faults or waits, or has not ended yet, has none; what
agents do after the end is not read (70_reset_and_hazards.md rule R119). -/
def observe : List Agent → State → Option (List Word × State)
  | [], s => if s.ended then some ([], s) else none
  | a :: rest, s =>
    if s.ended then some ([], s)
    else
      match runAgent a s with
      | .next t => (observe rest t).map fun o => (observed a s t ++ o.1, o.2)
      | .fault _ => none
      | .refused _ => none

end Sys2Proof.Machine
end

