-- ==== Sys2Proof/Safety.lean ====
section
/-! DEFINITION. Runs, and the terms claims about them use: the invariants of 10_state.md rule R34, the
service premise, fairness, and what it takes for a run to finish. -/

namespace Sys2Proof.Machine

/-- One atomic step of the agent `a` (00_scope.md rule R11). -/
def StepsTo (a : Agent) (s t : State) : Prop := s.enabled a = true ∧ agentStep a s = .next t

/-- An infinite run: `agents n` steps from `states n` to `states (n + 1)` (00_scope.md rule R11). -/
def IsRun (states : Nat → State) (agents : Nat → Agent) : Prop :=
  ∀ n, StepsTo (agents n) (states n) (states (n + 1))

/-- Weak fairness to one agent: enabled from some step on, it eventually steps (70_reset_and_hazards.md rule R117). -/
def WeaklyFair (a : Agent) (states : Nat → State) (agents : Nat → Agent) : Prop :=
  ∀ n, (∀ m, n ≤ m → (states m).enabled a = true) → ∃ m, n ≤ m ∧ agents m = a

/-- An infinite run with the fairness a claim may assume: to MAIN, TIMER and HANDLER, but not to OSC
(70_reset_and_hazards.md rule R117). -/
def FairRun (states : Nat → State) (agents : Nat → Agent) : Prop :=
  IsRun states agents ∧ WeaklyFair .main states agents ∧ WeaklyFair .timer states agents ∧
    WeaklyFair .handler states agents

/-- A run may stop here without being unfair to MAIN, TIMER or HANDLER: none of them is enabled, so none is
enabled from some step on. OSC may be enabled, since its step may never come (70_reset_and_hazards.md rule
R117; log entry 20). -/
def State.stopsFairly (s : State) : Bool := !s.enabled .main && !s.enabled .timer && !s.enabled .handler

/-- A finite run with the same fairness: it stops where it may (70_reset_and_hazards.md rule R117; log entry 20). -/
def FairFiniteRun (agents : List Agent) (s t : State) : Prop :=
  runAgents agents s = some t ∧ t.stopsFairly = true

/-- Every fair run from `s`, finite or infinite, comes to a state with the property `p`
(70_reset_and_hazards.md rule R117). -/
def FairlyReaches (p : State → Prop) (s : State) : Prop :=
  (∀ (states : Nat → State) (agents : Nat → Agent), FairRun states agents → states 0 = s → ∃ n, p (states n)) ∧
  (∀ (l : List Agent) (t : State), FairFiniteRun l s t →
    ∃ m rest u, l = m ++ rest ∧ runAgents m s = some u ∧ p u)

/-- The claim that a run from `s` finishes: every fair run has an end (70_reset_and_hazards.md rules R117 and
R119). A fair run that stops in a fault, or waits for ever, refutes it. -/
def FairlyFinishes (s : State) : Prop := FairlyReaches (fun t => t.ended = true) s

/-- The service premise of a run from `s` to `t` without a reset action: no period is lost in it
(70_reset_and_hazards.md rule R109). -/
def NoPeriodLost (s t : State) : Prop := t.lost = s.lost

/-- The agents that step in an infinite run between its states `m` and `n`. -/
def agentsBetween (agents : Nat → Agent) (m n : Nat) : List Agent := (List.range' m (n - m)).map agents

/-- From the run's start up to its state `n`, MAIN is in the wait it starts in. -/
def WaitsUntil (states : Nat → State) (n : Nat) : Prop := ∀ k, k ≤ n → (states k).ms = (states 0).ms

/-- The service premise of a wait: no period is lost while it lasts (70_reset_and_hazards.md rule R109). -/
def NoPeriodLostInWait (states : Nat → State) : Prop := ∀ n, WaitsUntil states n → NoPeriodLost (states 0) (states n)

/-- A window premise of a wait for `d`: while it lasts, at most `2^32 − d` steps of the agent `a` pass between
two polls. DESIGN CHOICE (log entry 30): 70_reset_and_hazards.md rule R113 and the example of 42_delay.md rule
R79 ask for fewer than `2^32 − d`; the bound here is the model's own and asks for less. -/
def PollsInWindow (a : Agent) (d : Word) (states : Nat → State) (agents : Nat → Agent) : Prop :=
  ∀ m n, m ≤ n → WaitsUntil states n → .main ∉ agentsBetween agents m n →
    (agentsBetween agents m n).count a ≤ 2 ^ 32 - d.toNat

/-- Some poll completes the wait the run starts in. -/
def WaitCompletes (states : Nat → State) (agents : Nat → Agent) : Prop :=
  ∃ n, WaitsUntil states n ∧ agents n = .main ∧ (states (n + 1)).ms = .idle ∧
    (states (n + 1)).cp = (states 0).cp + 1 ∧ (states (n + 1)).fault = 0

/-- What holds in every state reachable from power-on: the invariants of 10_state.md rule R34, and the
four facts that make them inductive (the last four fields). -/
structure State.Inv (s : State) : Prop where
  /-- (I-U) -/
  unclocked : s.lc = .uninitialized → s.clken = false ∧ s.irqen = false
  /-- (I-R) -/
  running : s.lc = .running →
    s.cfg = true ∧ s.ie = true ∧ s.cnten = true ∧ s.clken = true ∧ s.irqen = true ∧ s.oscen = true ∧ s.oscrdy = true
  /-- (I-S) -/
  suspended : s.lc = .suspended →
    s.cfg = true ∧ s.ie = true ∧ s.clken = true ∧ s.irqen = true ∧ s.oscen = true ∧ s.oscrdy = true ∧ s.cnten = false
  /-- (I-W) -/
  oscWait : s.ms = .waitOsc → s.lc = .uninitialized
  /-- (I-D) -/
  delayWait : ∀ start d, s.ms = .waitMs start d ∨ s.ms = .waitUs start d → s.lc = .running ∨ s.lc = .suspended
  /-- (I-C) -/
  counts : s.counting = true ↔ s.lc = .running
  /-- `INIT` requested the oscillator before it waits (43_lifecycle.md rule R83) -/
  oscRequested : s.ms = .waitOsc → s.oscen = true
  /-- and its reset action still stands while it waits (43_lifecycle.md rules R83 to R85) -/
  oscWaitZero : s.ms = .waitOsc → s.uptime = 0 ∧ s.tick = 0 ∧ s.pef = false ∧ s.cmf = false ∧ s.lost = 0
  /-- a waiting command is a command of the stream (10_state.md rule R32) -/
  waitsInStream : s.ms ≠ .idle → s.cp < s.stream.length
  /-- a wait faults never (60_exceptions.md rule R93) -/
  waitsUnfaulted : s.ms ≠ .idle → s.fault = 0

/-- `TICK ≤ P − 1`, which holds from the first reset action on (10_state.md rule R16). -/
def State.tickInPeriod (s : State) : Prop := s.tick.toNat ≤ Config.period - 1

/-- The timebase and its flags are as before. -/
def KeepsTimebase (s t : State) : Prop :=
  t.uptime = s.uptime ∧ t.tick = s.tick ∧ t.pef = s.pef ∧ t.cmf = s.cmf ∧ t.lost = s.lost

/-- Every control bit is as before (10_state.md rules R19 to R25). -/
def KeepsControl (s t : State) : Prop :=
  t.cfg = s.cfg ∧ t.ie = s.ie ∧ t.cnten = s.cnten ∧ t.clken = s.clken ∧ t.irqen = s.irqen ∧
    t.oscen = s.oscen ∧ t.oscrdy = s.oscrdy

/-- What MAIN alone holds is as before: `LC`, `MS`, `CP`, `RES` and `FAULT`. -/
def KeepsMain (s t : State) : Prop :=
  t.lc = s.lc ∧ t.ms = s.ms ∧ t.cp = s.cp ∧ t.res = s.res ∧ t.fault = s.fault

/-- The command stream and the model's own fields are as before. -/
def KeepsRun (s t : State) : Prop := t.stream = s.stream ∧ t.sched = s.sched ∧ t.turn = s.turn

/-- MAIN's next step is a fetch of `INIT`, `DEINIT` or `RESET`, the commands that perform the reset
action (43_lifecycle.md rules R82, R83, R88 and R89). -/
def State.atResetAction (s : State) : Bool :=
  s.ms == .idle &&
    (s.fetch == some (encode .init) || s.fetch == some (encode .deinit) || s.fetch == some (encode .reset))

/-- No step of the agents' run from `s` performs the reset action. -/
def ResetFree : List Agent → State → Prop
  | [], _ => True
  | a :: rest, s =>
    ¬ (a = .main ∧ s.atResetAction = true) ∧
      match runAgent a s with
      | .next t => ResetFree rest t
      | .fault _ => True
      | .refused _ => True

end Sys2Proof.Machine
end

