-- ==== Sys2Proof/Certificates/Slice0/Obligations.lean ====
section
/-! DEFINITION. The statements about the model for the provers, from the numbered rules of spec/. -/

open Sys2Proof Sys2Proof.Machine

/-! ### Power-on and the invariants -/

/-- 10_state.md rule R35 and 70_reset_and_hazards.md rule R106: power-on, for every draw and stream, and
a power-on reset during a run. That the reset keeps the command stream and the model's own schedule is the
model's choice (log entry 9). -/
def Obligations.PowerOnFollowsTheTable : Prop :=
  ∀ (d : PowerOn) (stream : List CommandWord),
    (let s := State.powerOn d stream
     s.clken = false ∧ s.irqen = false ∧ s.lc = .uninitialized ∧ s.ms = .idle ∧ s.cp = 0 ∧ s.res = none ∧
       s.fault = 0 ∧ s.lost = 0 ∧ s.uptime = d.uptime ∧ s.tick = d.tick ∧ s.pef = d.pef ∧ s.cmf = d.cmf ∧
       s.cfg = d.cfg ∧ s.ie = d.ie ∧ s.cnten = d.cnten ∧ s.oscen = d.oscen ∧ s.oscrdy = d.oscrdy ∧
       s.stream = stream ∧ s.fetch = stream[0]? ∧ s.enabled .timer = false ∧ s.enabled .handler = false) ∧
    ∀ s : State,
      s.powerOnReset d = { State.powerOn d s.stream with sched := s.sched, turn := s.turn } ∧
        (s.powerOnReset d).ms = .idle ∧ (s.powerOnReset d).fault = 0

/-- The model's choice (log entries 3 and 4): `State.reset` is the power-on with every draw 0 and no
command stream, so no agent has a step before a program is loaded. -/
def Obligations.ResetIsPowerOnWithZeroDraws : Prop :=
  State.reset = State.powerOn ⟨0, 0, false, false, false, false, false, false, false⟩ [] ∧
    step State.reset = .fault .noAgentEnabled

/-- The invariant holds at power-on, whatever the draws and the stream. -/
def Obligations.InvariantHoldsAtPowerOn : Prop :=
  (∀ (d : PowerOn) (stream : List CommandWord), (State.powerOn d stream).Inv) ∧ State.reset.Inv

/-- Every step of the machine, whichever agent takes it, keeps the invariant. -/
def Obligations.InvariantIsKeptByEveryStep : Prop :=
  ∀ s t : State, s.Inv → step s = .next t → t.Inv

/-- 10_state.md section 7, the invariants the spec derives at R34: all of them in every state reachable from
power-on, for every draw, every command stream and every interleaving of the agents. -/
def Obligations.ReachableStatesMeetTheInvariants : Prop :=
  ∀ (d : PowerOn) (stream : List CommandWord) (l : List Agent) (s : State),
    runAgents l (State.powerOn d stream) = some s →
      (s.lc = .uninitialized → s.clken = false ∧ s.irqen = false) ∧
      (s.lc = .running → s.cfg = true ∧ s.ie = true ∧ s.cnten = true ∧ s.clken = true ∧ s.irqen = true ∧
        s.oscen = true ∧ s.oscrdy = true) ∧
      (s.lc = .suspended → s.cfg = true ∧ s.ie = true ∧ s.clken = true ∧ s.irqen = true ∧ s.oscen = true ∧
        s.oscrdy = true ∧ s.cnten = false) ∧
      (s.ms = .waitOsc → s.lc = .uninitialized) ∧
      (∀ start d, s.ms = .waitMs start d ∨ s.ms = .waitUs start d → s.lc = .running ∨ s.lc = .suspended) ∧
      (s.counting = true ↔ s.lc = .running) ∧ (s.irq = true → s.lc = .running)

/-! ### Encoding -/

/-- 30_encoding.md rules R47 to R50: every command, with every operand, decodes from its own word. -/
def Obligations.DecodeOfEncodeIsTheCommand : Prop := ∀ i : Instr, decode (encode i) = .ok i

/-- The other direction: a legal word is the encoding of its command, so no command has two words. -/
def Obligations.LegalWordIsItsCommandsEncoding : Prop :=
  ∀ (w : CommandWord) (i : Instr), decode w = .ok i → w = encode i

/-- 30_encoding.md rule R50: the decoder and the opcode table's masks and matches agree on every word, no
word matches two rows, and a word is illegal exactly when it matches none. -/
def Obligations.OpcodeTableAgreesWithTheDecoder : Prop :=
  (∀ (w : CommandWord) (r : OpcodeRow), r ∈ opcodeTable →
    (r.admits w = true ↔ ∃ i : Instr, decode w = .ok i ∧ i.mnemonic = r.mnemonic)) ∧
  (∀ (w : CommandWord) (r q : OpcodeRow), r ∈ opcodeTable → q ∈ opcodeTable →
    r.admits w = true → q.admits w = true → r = q) ∧
  (∀ w : CommandWord, (∃ e, decode w = .error e) ↔ ∀ r ∈ opcodeTable, r.admits w = false)

/-- 30_encoding.md rule R51: which words are illegal, and that fetching one raises `ILLEGAL_COMMAND` and
changes nothing else. -/
def Obligations.IllegalWordsFault : Prop :=
  (∀ w : CommandWord, (∃ e, decode w = .error e) ↔
    (w.extractLsb' 0 8 ∉ ([0x01, 0x02, 0x03, 0x04, 0x05, 0x10, 0x11, 0x20, 0x21] : List (BitVec 8)) ∨
      w.extractLsb' 8 24 ≠ 0 ∨
      (w.extractLsb' 32 32 ≠ 0 ∧
        w.extractLsb' 0 8 ∈ ([0x01, 0x02, 0x03, 0x04, 0x05, 0x10, 0x11] : List (BitVec 8))))) ∧
  (∀ (s : State) (w : CommandWord) (e : Illegal), s.fault = 0 → s.ms = .idle → s.fetch = some w →
    decode w = .error e → s.enabled .main = true ∧ agentStep .main s = .next { s with fault := 0x01 }) ∧
  (∃ e, decode 0 = .error e)

/-- The encoding vectors ENC-1, ENC-5, ENC-7, ENC-8, ENC-9, ENC-12, ENC-14 and ENC-16 of
95_test_vectors.md section 2.1. -/
def Obligations.WrittenOutWordsDecode : Prop :=
  decode 0x0000000000000001 = .ok .init ∧ decode 0x0000000000000005 = .ok .resume ∧
    decode 0x0000000000000011 = .ok .micros ∧ decode 0x0000000A00000020 = .ok (.delayMs 10) ∧
    decode 0xFFFFFFFF00000021 = .ok (.delayUs 4294967295) ∧
    decode 0x0000000000000006 = .error .unknownOpcode ∧
    decode 0x0000000000000110 = .error .reservedBits ∧
    decode 0x0000000100000010 = .error .operandBits

/-- 20_memory.md rule R37: byte `k` of a word carried as bytes is `word[8k+7 : 8k]`, for command words
and for results, and the decoder reads the bytes back in that order. -/
def Obligations.BytesAreLittleEndian : Prop :=
  (∀ (w : CommandWord) (k : Nat), k < 8 →
    (commandBytes w)[k]? = some (BitVec.ofNat 8 (w.toNat / 2 ^ (8 * k)))) ∧
  (∀ w : CommandWord, (commandBytes w).length = 8) ∧
  (∀ (v : Word) (k : Nat), k < 4 → (resultBytes v)[k]? = some (BitVec.ofNat 8 (v.toNat / 2 ^ (8 * k)))) ∧
  (∀ v : Word, (resultBytes v).length = 4) ∧
  (∀ (i : Instr) (rest : List Byte), decodeBytes (commandBytes (encode i) ++ rest) = .ok (i, rest))

/-- 30_encoding.md rule R53, with the digit separator of 00_scope.md rule R7: each mnemonic, each literal, a
line with its comment, and a whole program, with the words they stand for. Blanks, empty lines, the case of
hexadecimal digits and where a separator may stand are the model's choice (log entry 19). -/
def Obligations.AssemblerWritesTheWord : Prop :=
  -- literals: decimal digits, hexadecimal digits in either case, and the separator
  (∀ ds : List Nat, ds ≠ [] → (∀ x ∈ ds, x < 10) →
    literal (ds.map Nat.digitChar) = some (Nat.ofDigits 10 ds.reverse)) ∧
  (∀ ds : List Nat, ds ≠ [] → (∀ x ∈ ds, x < 16) →
    literal ('0' :: 'x' :: ds.map Nat.digitChar) = some (Nat.ofDigits 16 ds.reverse) ∧
    literal ('0' :: 'x' :: ds.map fun x => (Nat.digitChar x).toUpper) = some (Nat.ofDigits 16 ds.reverse)) ∧
  (∀ cs ds : List Char, literal ('0' :: 'x' :: (cs ++ '_' :: ds)) = literal ('0' :: 'x' :: (cs ++ ds))) ∧
  -- the delays: a duration in range gives its word, one out of range is refused
  (∀ (n : List Char) (v : Nat), literal n = some v → v < 2 ^ 32 →
    parseLine (['D', 'E', 'L', 'A', 'Y', '_', 'M', 'S', ' '] ++ n) = .ok (some (.delayMs (BitVec.ofNat 32 v))) ∧
    encode (.delayMs (BitVec.ofNat 32 v)) = BitVec.ofNat 64 (v * 2 ^ 32 + 0x20) ∧
    parseLine (['D', 'E', 'L', 'A', 'Y', '_', 'U', 'S', ' '] ++ n) = .ok (some (.delayUs (BitVec.ofNat 32 v))) ∧
    encode (.delayUs (BitVec.ofNat 32 v)) = BitVec.ofNat 64 (v * 2 ^ 32 + 0x21)) ∧
  (∀ (n : List Char) (v : Nat), literal n = some v → 2 ^ 32 ≤ v →
    parseLine (['D', 'E', 'L', 'A', 'Y', '_', 'M', 'S', ' '] ++ n) = .error .outOfRange ∧
    parseLine (['D', 'E', 'L', 'A', 'Y', '_', 'U', 'S', ' '] ++ n) = .error .outOfRange ∧
    ∀ m : List Char, assembleDelay m n = .error .outOfRange) ∧
  -- the other mnemonics with their words, and no other text is one of them
  (parseLine ['I', 'N', 'I', 'T'] = .ok (some .init) ∧ encode .init = 0x01 ∧
    parseLine ['D', 'E', 'I', 'N', 'I', 'T'] = .ok (some .deinit) ∧ encode .deinit = 0x02 ∧
    parseLine ['R', 'E', 'S', 'E', 'T'] = .ok (some .reset) ∧ encode .reset = 0x03 ∧
    parseLine ['S', 'U', 'S', 'P', 'E', 'N', 'D'] = .ok (some .suspend) ∧ encode .suspend = 0x04 ∧
    parseLine ['R', 'E', 'S', 'U', 'M', 'E'] = .ok (some .resume) ∧ encode .resume = 0x05 ∧
    parseLine ['M', 'I', 'L', 'L', 'I', 'S'] = .ok (some .millis) ∧ encode .millis = 0x10 ∧
    parseLine ['M', 'I', 'C', 'R', 'O', 'S'] = .ok (some .micros) ∧ encode .micros = 0x11) ∧
  (∀ (m : List Char) (i : Instr), bareMnemonic m = some i → i.mnemonic = String.ofList m) ∧
  -- a line's comment, and a program's words
  (∀ cs comment : List Char, parseLine (cs ++ ';' :: comment) = parseLine cs) ∧
  (∀ (lines : List (List Char)) (os : List (Option Instr)),
    List.Forall₂ (fun line o => parseLine line = .ok o) lines os →
      assemble lines = .ok ((os.filterMap id).map encode) ∧
      ∀ (bad : List Char) (e : AsmIssue) (rest : List (List Char)), parseLine bad = .error e →
        assemble (lines ++ bad :: rest) = .error e)

/-! ### The step function -/

/-- A step runs the decoded command: when the schedule names MAIN, MAIN is idle and not faulted, and the
word at `CP` decodes to `i`, the step is `exec i` on the state with the model's own fields moved on
(30_encoding.md rule R50; the schedule is the model's choice, log entry 1). Also for a command the host has
placed (log entry 4). -/
def Obligations.StepRunsTheFetchedCommand : Prop :=
  (∀ (s : State) (rest : List Agent) (w : CommandWord) (i : Instr), s.sched = .main :: rest → s.fault = 0 →
    s.ms = .idle → s.fetch = some w → decode w = .ok i →
      step s = exec i { s with sched := rest, turn := s.turn + 1 }) ∧
  (∀ (s : State) (i : Instr),
    step (s.withFetchWord 64 (encode i).toNat) =
      exec i { s.placeCommand (encode i) with sched := s.sched, turn := s.turn + 1 } ∧
    (s.placeCommand (encode i)).fetch = some (encode i))

/-- 00_scope.md rule R11: every step is the atomic step of one agent enabled in the state before it, and
every enabled agent may be the one: with a schedule that names it (the model's choice, log entry 1), its step
is taken and answers. -/
def Obligations.StepIsOneEnabledAgentsStep : Prop :=
  (∀ s t : State, step s = .next t →
    ∃ a : Agent, s.enabled a = true ∧ StepsTo a { s with sched := s.sched.tail, turn := s.turn + 1 } t) ∧
  (∀ (a : Agent) (s : State) (rest : List Agent), s.enabled a = true →
    ∃ t, step { s with sched := a :: rest } = .next t ∧
      StepsTo a { s with sched := rest, turn := s.turn + 1 } t)

/-- Where the machine has no next state (the model's choice, log entries 2 and 7): a schedule that names an
agent that is not enabled (30_encoding.md rule R55), and a state in which no agent is enabled (00_scope.md
rule R10); with no agent named, any state with an enabled agent has a next state. -/
def Obligations.StepStopsOnlyWithoutAnEnabledAgent : Prop :=
  (∀ (s : State) (a : Agent) (rest : List Agent), s.sched = a :: rest → s.enabled a = false →
    step s = .refused (.notEnabled a)) ∧
  (∀ s : State, s.sched = [] → (∀ a, s.enabled a = false) → step s = .fault .noAgentEnabled) ∧
  (∀ (s : State) (a : Agent), s.sched = [] → s.enabled a = true → ∃ t, step s = .next t)

/-- The step function refines the interleaving of the agents: running the machine with a list of agents
as its schedule (the model's choice, log entry 1) is running the agents of the list one after another
(00_scope.md rule R11). -/
def Obligations.SchedulesRunAsTheirAgents : Prop :=
  ∀ (l : List Agent) (s : State),
    (∀ t, runAgents l s = some t →
      Host.Core.run Sys2Proof.core l.length { s with sched := l } =
        .next { t with sched := [], turn := s.turn + l.length }) ∧
    (∀ u, Host.Core.run Sys2Proof.core l.length { s with sched := l } = .next u →
      ∃ t, runAgents l s = some t ∧ u = { t with sched := [], turn := s.turn + l.length })

/-! ### The commands -/

/-- 41_time_query.md rule R70. -/
def Obligations.MillisReturnsTheCounter : Prop :=
  decode 0x0000000000000010 = .ok .millis ∧
  ∀ s : State,
    (s.lc ≠ .uninitialized → exec .millis s = .next { s with res := some s.uptime, ms := .idle, cp := s.cp + 1 }) ∧
    (s.lc = .uninitialized → exec .millis s = .next { s with fault := 0x02 })

/-- 41_time_query.md rule R71: the result is `((UPTIME + PEF) × P + TICK) mod 2^32`, computed in numbers. -/
def Obligations.MicrosReturnsTheComposedTime : Prop :=
  decode 0x0000000000000011 = .ok .micros ∧
  ∀ s : State,
    (s.lc ≠ .uninitialized → exec .micros s = .next
      { s with
        res := some (BitVec.ofNat 32 ((s.uptime.toNat + s.pef.toNat) * Config.period + s.tick.toNat))
        ms := .idle
        cp := s.cp + 1 }) ∧
    (s.lc = .uninitialized → exec .micros s = .next { s with fault := 0x02 })

/-- 42_delay.md rule R76, the first step: the guard, `d = 0`, and the wait from the raw counter. -/
def Obligations.DelayMsFirstStep : Prop :=
  ∀ (d : Word) (s : State),
    decode (d ++ (0x00000020 : BitVec 32)) = .ok (.delayMs d) ∧
    (s.lc ≠ .uninitialized → d = 0 → exec (.delayMs d) s = .next { s with ms := .idle, cp := s.cp + 1 }) ∧
    (s.lc ≠ .uninitialized → d ≠ 0 → exec (.delayMs d) s = .next { s with ms := .waitMs s.uptime d }) ∧
    (s.lc = .uninitialized → exec (.delayMs d) s = .next { s with fault := 0x02 })

/-- 42_delay.md rule R77, the first step: the guard, `d = 0`, and the wait from the composed value. -/
def Obligations.DelayUsFirstStep : Prop :=
  ∀ (d : Word) (s : State),
    decode (d ++ (0x00000021 : BitVec 32)) = .ok (.delayUs d) ∧
    (s.lc ≠ .uninitialized → d = 0 → exec (.delayUs d) s = .next { s with ms := .idle, cp := s.cp + 1 }) ∧
    (s.lc ≠ .uninitialized → d ≠ 0 → exec (.delayUs d) s = .next
      { s with ms :=
          .waitUs (BitVec.ofNat 32 ((s.uptime.toNat + s.pef.toNat) * Config.period + s.tick.toNat)) d }) ∧
    (s.lc = .uninitialized → exec (.delayUs d) s = .next { s with fault := 0x02 })

/-- 42_delay.md rule R78: one poll of either delay. -/
def Obligations.DelayPolls : Prop :=
  ∀ (s : State) (start d : Word),
    (s.ms = .waitMs start d →
      (d.toNat ≤ (s.uptime - start).toNat → agentStep .main s = .next { s with ms := .idle, cp := s.cp + 1 }) ∧
      (¬ d.toNat ≤ (s.uptime - start).toNat → agentStep .main s = .next s)) ∧
    (s.ms = .waitUs start d →
      (d.toNat ≤ (s.snapshot - start).toNat → agentStep .main s = .next { s with ms := .idle, cp := s.cp + 1 }) ∧
      (¬ d.toNat ≤ (s.snapshot - start).toNat → agentStep .main s = .next s)) ∧
    (s.Inv → s.ms = .waitMs start d ∨ s.ms = .waitUs start d →
      s.enabled .main = true ∧ (s.lc = .running ∨ s.lc = .suspended))

/-- 43_lifecycle.md rule R82. -/
def Obligations.ResetZeroesTheTimebase : Prop :=
  decode 0x0000000000000003 = .ok .reset ∧
  ∀ s : State, exec .reset s = .next
    { s with uptime := 0, tick := 0, pef := false, cmf := false, lost := 0, ms := .idle, cp := s.cp + 1 }

/-- 43_lifecycle.md rule R83: the first step of `INIT`. -/
def Obligations.InitFirstStep : Prop :=
  decode 0x0000000000000001 = .ok .init ∧
  ∀ s : State,
    (s.oscrdy = true → exec .init s = .next
      { s with
        uptime := 0, tick := 0, pef := false, cmf := false, lost := 0, oscen := true
        clken := true, cfg := true, ie := true, irqen := true, cnten := true
        lc := .running, ms := .idle, cp := s.cp + 1 }) ∧
    (s.oscrdy = false → exec .init s = .next
      { s with
        uptime := 0, tick := 0, pef := false, cmf := false, lost := 0, oscen := true, ms := .waitOsc }) ∧
    (s.Inv → s.lc ≠ .uninitialized → s.oscrdy = true)

/-- 43_lifecycle.md rule R84: the oscillator wait, what it excludes, and the one step that can end it. -/
def Obligations.OscillatorWait : Prop :=
  ∀ s : State, s.ms = .waitOsc →
    (s.oscrdy = true → agentStep .main s = .next
      { s with
        clken := true, cfg := true, ie := true, irqen := true, cnten := true
        lc := .running, ms := .idle, cp := s.cp + 1 }) ∧
    (s.oscrdy = false → agentStep .main s = .next s) ∧
    (s.Inv → s.lc = .uninitialized ∧ s.clken = false ∧ s.enabled .main = true ∧
      s.enabled .timer = false ∧ s.enabled .handler = false) ∧
    (s.Inv → s.oscrdy = false → ∀ (a : Agent) (t : State), StepsTo a s t →
      t.ms = .waitOsc ∧ (t.oscrdy = true ↔ a = .osc))

/-- 43_lifecycle.md rule R86. -/
def Obligations.SuspendFreezesTheTimebase : Prop :=
  decode 0x0000000000000004 = .ok .suspend ∧
  ∀ s : State,
    (s.lc = .running → exec .suspend s = .next
        { s with cnten := false, lc := .suspended, ms := .idle, cp := s.cp + 1 } ∧
      ∀ t, exec .suspend s = .next t →
        t.counting = false ∧ t.irq = false ∧ t.enabled .timer = false ∧ t.enabled .handler = false) ∧
    (s.lc ≠ .running → exec .suspend s = .next { s with fault := 0x03 })

/-- 43_lifecycle.md rule R87. -/
def Obligations.ResumeContinuesTheTimebase : Prop :=
  decode 0x0000000000000005 = .ok .resume ∧
  ∀ s : State,
    (s.lc = .suspended → exec .resume s = .next
        { s with cnten := true, lc := .running, ms := .idle, cp := s.cp + 1 } ∧
      (s.Inv → s.pef = true → ∀ t, exec .resume s = .next t → t.irq = true)) ∧
    (s.lc ≠ .suspended → exec .resume s = .next { s with fault := 0x03 })

/-- 43_lifecycle.md rule R88. -/
def Obligations.DeinitStopsTheTimebase : Prop :=
  decode 0x0000000000000002 = .ok .deinit ∧
  ∀ s : State, exec .deinit s = .next
    { s with
      irqen := false, clken := false, uptime := 0, tick := 0, pef := false, cmf := false, lost := 0
      lc := .uninitialized, ms := .idle, cp := s.cp + 1 }

/-- 43_lifecycle.md rule R81: every command in every lifecycle state. -/
def Obligations.LifecycleTable : Prop :=
  ∀ (i : Instr) (s : State), s.Inv → ∃ t, exec i s = .next t ∧
    (i = .init → t.fault = s.fault ∧ t.uptime = 0 ∧ t.tick = 0 ∧ t.pef = false ∧ t.cmf = false ∧
      (s.lc ≠ .uninitialized ∨ s.oscrdy = true →
        t.lc = .running ∧ t.counting = true ∧ t.ms = .idle ∧ t.cp = s.cp + 1) ∧
      (s.lc = .uninitialized → s.oscrdy = false → t.lc = .uninitialized ∧ t.ms = .waitOsc ∧ t.cp = s.cp)) ∧
    (i = .reset → t.lc = s.lc ∧ t.fault = s.fault ∧ t.uptime = 0 ∧ t.tick = 0 ∧ t.pef = false ∧
      t.ms = .idle ∧ t.cp = s.cp + 1) ∧
    (i = .suspend →
      (s.lc = .running → t.lc = .suspended ∧ t.fault = s.fault ∧ t.ms = .idle ∧ t.cp = s.cp + 1) ∧
      (s.lc ≠ .running → t.fault = 0x03 ∧ t.lc = s.lc ∧ t.cp = s.cp)) ∧
    (i = .resume →
      (s.lc = .suspended → t.lc = .running ∧ t.fault = s.fault ∧ t.ms = .idle ∧ t.cp = s.cp + 1) ∧
      (s.lc ≠ .suspended → t.fault = 0x03 ∧ t.lc = s.lc ∧ t.cp = s.cp)) ∧
    (i = .deinit → t.lc = .uninitialized ∧ t.fault = s.fault ∧ t.clken = false ∧ t.ms = .idle ∧ t.cp = s.cp + 1) ∧
    (i = .millis ∨ i = .micros ∨ (∃ d, i = .delayMs d) ∨ (∃ d, i = .delayUs d) →
      t.lc = s.lc ∧ (s.lc = .uninitialized → t.fault = 0x02 ∧ t.cp = s.cp) ∧
      (s.lc ≠ .uninitialized → t.fault = s.fault ∧
        (i = .millis ∨ i = .micros → t.res.isSome = true ∧ t.ms = .idle ∧ t.cp = s.cp + 1) ∧
        (i ≠ .millis ∧ i ≠ .micros → (t.ms = .idle ∧ t.cp = s.cp + 1) ∨ (t.ms ≠ .idle ∧ t.cp = s.cp))))

/-! ### The agents that run on their own -/

/-- 40_tick_and_handler.md rules R56 and R57. -/
def Obligations.TimerCountsTicks : Prop :=
  ∀ s : State,
    (s.enabled .timer = true ↔ s.clken = true ∧ s.cnten = true ∧ s.cfg = true ∧ s.oscrdy = true) ∧
    (s.Inv → (s.enabled .timer = true ↔ s.lc = .running)) ∧
    (s.tick.toNat = Config.period - 1 → agentStep .timer s = .next
      { s with lost := s.lost + s.pef.toNat, tick := 0, pef := true }) ∧
    (s.tick.toNat ≠ Config.period - 1 → agentStep .timer s = .next { s with tick := s.tick + 1 }) ∧
    (s.tickInPeriod → ∀ t, agentStep .timer s = .next t → t.tick.toNat < Config.period)

/-- 40_tick_and_handler.md rule R62, and the level of rule R61 that enables it. -/
def Obligations.HandlerServesThePeriod : Prop :=
  ∀ s : State,
    (s.enabled .handler = true ↔
      s.pef = true ∧ s.ie = true ∧ s.irqen = true ∧ s.clken = true ∧ s.cnten = true) ∧
    agentStep .handler s = .next { s with pef := false, cmf := false, uptime := s.uptime + 1 } ∧
    (s.uptime = 0xFFFFFFFF → ∀ t, agentStep .handler s = .next t → t.uptime = 0)

/-- 40_tick_and_handler.md rule R66: the OSC agent's enabling and step. -/
def Obligations.OscillatorBecomesReady : Prop :=
  ∀ s : State,
    (s.enabled .osc = true ↔ s.oscen = true ∧ s.oscrdy = false) ∧
    agentStep .osc s = .next { s with oscrdy := true }

/-! ### Frames -/

/-- What `MILLIS`, `MICROS`, `DELAY_MS` and `DELAY_US` leave unchanged: everything but `RES` (the
queries alone), `MS`, `CP` and `FAULT`. The block has no memory and no register file. -/
def Obligations.FrameOfQueriesAndDelays : Prop :=
  ∀ (i : Instr) (s t : State),
    i = .millis ∨ i = .micros ∨ (∃ d, i = .delayMs d) ∨ (∃ d, i = .delayUs d) → exec i s = .next t →
      KeepsTimebase s t ∧ KeepsControl s t ∧ KeepsRun s t ∧ t.lc = s.lc ∧
      ((∃ d, i = .delayMs d) ∨ (∃ d, i = .delayUs d) → t.res = s.res) ∧
      (s.lc ≠ .uninitialized → t.fault = s.fault) ∧
      (s.lc = .uninitialized → t.res = s.res ∧ t.ms = s.ms ∧ t.cp = s.cp)

/-- What the lifecycle commands leave unchanged: none writes `RES` or the stream; `RESET` keeps every
control bit and `LC`; `INIT` keeps `OSCRDY`; `DEINIT` keeps all control bits but `CLKEN` and `IRQEN`;
`SUSPEND` and `RESUME` keep the timebase and all control bits but `CNTEN`. -/
def Obligations.FrameOfLifecycleCommands : Prop :=
  ∀ s t : State,
    (exec .reset s = .next t → KeepsControl s t ∧ KeepsRun s t ∧ t.lc = s.lc ∧ t.res = s.res ∧ t.fault = s.fault) ∧
    (exec .init s = .next t → KeepsRun s t ∧ t.oscrdy = s.oscrdy ∧ t.res = s.res ∧ t.fault = s.fault ∧
      (s.oscrdy = false → t.cfg = s.cfg ∧ t.ie = s.ie ∧ t.cnten = s.cnten ∧ t.clken = s.clken ∧
        t.irqen = s.irqen ∧ t.lc = s.lc ∧ t.cp = s.cp)) ∧
    (exec .deinit s = .next t → KeepsRun s t ∧ t.cfg = s.cfg ∧ t.ie = s.ie ∧ t.cnten = s.cnten ∧
      t.oscen = s.oscen ∧ t.oscrdy = s.oscrdy ∧ t.res = s.res ∧ t.fault = s.fault) ∧
    (exec .suspend s = .next t ∨ exec .resume s = .next t →
      KeepsTimebase s t ∧ KeepsRun s t ∧ t.cfg = s.cfg ∧ t.ie = s.ie ∧ t.clken = s.clken ∧
      t.irqen = s.irqen ∧ t.oscen = s.oscen ∧ t.oscrdy = s.oscrdy ∧ t.res = s.res ∧
      (t.fault ≠ s.fault → t.cnten = s.cnten ∧ t.lc = s.lc ∧ t.ms = s.ms ∧ t.cp = s.cp)) ∧
    (exec .suspend s = .next t → s.lc = .running → t.fault = s.fault) ∧
    (exec .resume s = .next t → s.lc = .suspended → t.fault = s.fault)

/-- What the agents' own steps leave unchanged (40_tick_and_handler.md rules R57, R62, R63 and R66). -/
def Obligations.FrameOfAgentSteps : Prop :=
  ∀ s t : State,
    (agentStep .timer s = .next t →
      KeepsMain s t ∧ KeepsControl s t ∧ KeepsRun s t ∧ t.uptime = s.uptime ∧ t.cmf = s.cmf) ∧
    (agentStep .handler s = .next t →
      KeepsMain s t ∧ KeepsControl s t ∧ KeepsRun s t ∧ t.tick = s.tick ∧ t.lost = s.lost) ∧
    (agentStep .osc s = .next t →
      KeepsMain s t ∧ KeepsTimebase s t ∧ KeepsRun s t ∧ t.cfg = s.cfg ∧ t.ie = s.ie ∧ t.cnten = s.cnten ∧
      t.clken = s.clken ∧ t.irqen = s.irqen ∧ t.oscen = s.oscen)

/-! ### Who writes what, over every step -/

/-- 10_state.md section 2, which the spec derives at R16: `TICK ≤ P − 1` from the first reset action on;
before it `TICK` is as it was at power-on. -/
def Obligations.TickStaysInThePeriod : Prop :=
  (∀ s : State, s.resetAction.tickInPeriod) ∧
  (∀ (s t : State) (i : Instr), i = .init ∨ i = .deinit ∨ i = .reset → exec i s = .next t → t.tick = 0) ∧
  (∀ (a : Agent) (s t : State), StepsTo a s t → s.tickInPeriod → t.tickInPeriod) ∧
  (∀ (a : Agent) (s t : State), s.Inv → s.lc = .uninitialized → StepsTo a s t →
    ¬ (a = .main ∧ s.atResetAction = true) → t.tick = s.tick)

/-- 10_state.md rule R18: no step sets `CMF`; the handler and the reset action clear it; and no step's
other effects depend on it. -/
def Obligations.CompareMatchIsNeverSetNorRead : Prop :=
  (∀ (a : Agent) (s t : State), StepsTo a s t → t.cmf = true → s.cmf = true) ∧
  (∀ s t : State, agentStep .handler s = .next t → t.cmf = false) ∧
  (∀ s t : State, StepsTo .main s t → s.atResetAction = true → t.cmf = false) ∧
  (∀ (a : Agent) (s t : State) (b : Bool), StepsTo a s t →
    ∃ u, StepsTo a { s with cmf := b } u ∧ { u with cmf := t.cmf } = t)

/-- 10_state.md rule R30: who writes the ghost `LOST`, and that no step's other effects depend on it. -/
def Obligations.LostIsAGhost : Prop :=
  (∀ (a : Agent) (s t : State), StepsTo a s t →
    (t.lost = s.lost ∨ (a = .timer ∧ s.tick.toNat = Config.period - 1 ∧ s.pef = true ∧ t.lost = s.lost + 1) ∨
      (a = .main ∧ s.atResetAction = true ∧ t.lost = 0))) ∧
  (∀ (s t : State), StepsTo .timer s t → s.tick.toNat = Config.period - 1 → s.pef = true →
    t.lost = s.lost + 1) ∧
  (∀ s t : State, StepsTo .main s t → s.atResetAction = true → t.lost = 0) ∧
  (∀ (a : Agent) (s t : State) (n : Nat), StepsTo a s t →
    ∃ u, StepsTo a { s with lost := n } u ∧ { u with lost := t.lost } = t)

/-- 10_state.md rule R14, with R13: `UPTIME` grows by exactly 1 at every service of the period-elapsed
event, which happens only while the timer is enabled; it wraps from `0xFFFF_FFFF` to 0 with no fault and no
flag; and nothing else writes it but a reset action's zero. -/
def Obligations.UptimeIsWrittenOnlyByHandlerAndReset : Prop :=
  (∀ (a : Agent) (s t : State), StepsTo a s t →
    t.uptime = s.uptime ∨
    (a = .handler ∧ s.pef = true ∧ s.cnten = true ∧ s.clken = true ∧ t.uptime = s.uptime + 1) ∨
    (a = .main ∧ s.atResetAction = true ∧ t.uptime = 0)) ∧
  (∀ s t : State, StepsTo .handler s t → t.uptime = s.uptime + 1 ∧
    (s.uptime = 0xFFFFFFFF → t.uptime = 0 ∧ t.fault = s.fault ∧ t.pef = false ∧ t.cmf = false)) ∧
  (∀ s t : State, StepsTo .main s t → s.atResetAction = true → t.uptime = 0)

/-- 10_state.md rule R17 and 40_tick_and_handler.md rule R64: `PEF` rises only at a rollover, falls only
by the handler and the reset action, and after a service the request is down. -/
def Obligations.PendingFlagIsWrittenOnlyAtItsEvents : Prop :=
  (∀ (a : Agent) (s t : State), StepsTo a s t →
    t.pef = s.pef ∨ (a = .timer ∧ s.tick.toNat = Config.period - 1 ∧ t.tick = 0 ∧ t.pef = true) ∨
      (a = .handler ∧ t.pef = false) ∨ (a = .main ∧ s.atResetAction = true ∧ t.pef = false)) ∧
  (∀ s t : State, StepsTo .timer s t → s.tick.toNat = Config.period - 1 → t.pef = true) ∧
  (∀ s t : State, StepsTo .handler s t → t.pef = false ∧ t.irq = false ∧ t.enabled .handler = false)

/-- 40_tick_and_handler.md rule R67, with 10_state.md rules R19, R20, R24 and R25: `OSCRDY` rises only by
the OSC agent; `OSCRDY`, `OSCEN`, `CFG` and `IE` never fall; the other control bits and `LC` change only
in MAIN's steps. -/
def Obligations.ControlBitsAreWrittenOnlyByTheirWriters : Prop :=
  ∀ (a : Agent) (s t : State), StepsTo a s t →
    (s.oscrdy = true → t.oscrdy = true) ∧ (t.oscrdy ≠ s.oscrdy → a = .osc) ∧
    (s.oscen = true → t.oscen = true) ∧ (s.cfg = true → t.cfg = true) ∧ (s.ie = true → t.ie = true) ∧
    (a ≠ .main → t.oscen = s.oscen ∧ t.cfg = s.cfg ∧ t.ie = s.ie ∧ t.cnten = s.cnten ∧ t.clken = s.clken ∧
      t.irqen = s.irqen ∧ t.lc = s.lc)

/-- 10_state.md rule R28: `RES` is written only by a completing `MILLIS` or `MICROS`; the reset action does
not touch it; and reading it while unwritten is a fault of the observation. -/
def Obligations.ResultIsWrittenOnlyByQueries : Prop :=
  (∀ (a : Agent) (s t : State), StepsTo a s t →
    t.res = s.res ∨
    (a = .main ∧ s.ms = .idle ∧ t.cp = s.cp + 1 ∧
      ((s.fetch = some (encode .millis) ∧ t.res = some s.uptime) ∨
       (s.fetch = some (encode .micros) ∧ t.res = some s.snapshot)))) ∧
  (∀ s : State, s.resetAction.res = s.res) ∧
  (∀ (d : PowerOn) (stream : List CommandWord), (State.powerOn d stream).res = none) ∧
  (∀ s : State, s.res = none → s.readRes = .fault .resUnwritten) ∧
  (∀ (s : State) (v : Word), s.res = some v → s.readRes = .next v)

/-- 10_state.md rule R32: `CP` starts at 0, advances by exactly 1 when a command completes and only then,
stays on a waiting or faulting command, and never passes the end of the stream, which no step writes. -/
def Obligations.CommandPositionAdvancesOnlyOnCompletion : Prop :=
  (∀ (d : PowerOn) (stream : List CommandWord), (State.powerOn d stream).cp = 0) ∧
  (∀ (a : Agent) (s t : State), StepsTo a s t →
    t.stream = s.stream ∧ (s.cp ≤ s.stream.length → t.cp ≤ t.stream.length) ∧
    (t.cp = s.cp ∨ t.cp = s.cp + 1) ∧
    (t.cp = s.cp + 1 ↔ a = .main ∧ t.ms = .idle ∧ t.fault = 0)) ∧
  (∀ s : State, s.cp = s.stream.length → s.enabled .main = false)

/-! ### Faults -/

/-- 60_exceptions.md rules R91 and R93: which fault code MAIN's step raises, and when; a fault leaves `CP`
on its command; a wait never faults. -/
def Obligations.FaultCodesAreRaisedAsTheTableSays : Prop :=
  ∀ s t : State, StepsTo .main s t →
    (s.ms ≠ .idle → t.fault = 0) ∧
    (∀ w : CommandWord, s.ms = .idle → s.fetch = some w →
      (t.fault = 0x01 ↔ ∃ e, decode w = .error e) ∧
      (t.fault = 0x02 ↔ s.lc = .uninitialized ∧
        (decode w = .ok .millis ∨ decode w = .ok .micros ∨ (∃ d, decode w = .ok (.delayMs d)) ∨
          ∃ d, decode w = .ok (.delayUs d))) ∧
      (t.fault = 0x03 ↔ (decode w = .ok .suspend ∧ s.lc ≠ .running) ∨
        (decode w = .ok .resume ∧ s.lc ≠ .suspended)) ∧
      (t.fault = 0 ∨ t.fault = 0x01 ∨ t.fault = 0x02 ∨ t.fault = 0x03) ∧
      (t.fault ≠ 0 → t.fetch = some w))

/-- 60_exceptions.md rule R92: a fault writes `FAULT` and nothing else; afterwards MAIN has no step, no
step clears the fault, the other agents go on as before, and the state is no end of a run; power-on
clears it. -/
def Obligations.FaultStopsMainForGood : Prop :=
  (∀ (a : Agent) (s t : State), StepsTo a s t → t.fault ≠ s.fault →
    a = .main ∧ s.fault = 0 ∧ t = { s with fault := t.fault }) ∧
  (∀ s : State, s.fault ≠ 0 → s.enabled .main = false ∧ s.ended = false) ∧
  (∀ (l : List Agent) (s t : State), s.fault ≠ 0 → runAgents l s = some t →
    t.fault = s.fault ∧ t.cp = s.cp ∧ t.ms = s.ms ∧ t.res = s.res ∧ t.lc = s.lc) ∧
  (∀ (a : Agent) (s : State) (c : BitVec 8), a ≠ .main → ({ s with fault := c } : State).enabled a = s.enabled a) ∧
  (∀ (s : State) (d : PowerOn), (s.powerOnReset d).fault = 0)

/-! ### Time: queries, ticks and periods -/

/-- 41_time_query.md, the relation the spec derives at R72: the two queries in one state. -/
def Obligations.QueriesAgreeOnOneState : Prop :=
  ∀ s : State, s.lc ≠ .uninitialized → ∃ (t u : State) (m us : Word),
    exec .millis s = .next t ∧ t.res = some m ∧ exec .micros s = .next u ∧ u.res = some us ∧
    us.toNat = (m.toNat * Config.period + s.pef.toNat * Config.period + s.tick.toNat) % 2 ^ 32 ∧
    (s.tickInPeriod → s.pef = false → m.toNat * Config.period + s.tick.toNat < 2 ^ 32 →
      us.toNat / Config.period = m.toNat ∧ us.toNat % Config.period = s.tick.toNat) ∧
    (s.pef = true → us = compose Config.period m false s.tick + BitVec.ofNat 32 Config.period)

/-- 41_time_query.md, the law the spec derives at R73, step by step: what each step does to the composed
value. -/
def Obligations.ComposedTimeChangesByTheStep : Prop :=
  ∀ (a : Agent) (s t : State), s.tickInPeriod → StepsTo a s t →
    (a = .timer → s.tick.toNat ≠ Config.period - 1 ∨ s.pef = false → t.snapshot = s.snapshot + 1) ∧
    (a = .timer → s.tick.toNat = Config.period - 1 → s.pef = true →
      t.snapshot = s.snapshot - BitVec.ofNat 32 (Config.period - 1)) ∧
    (a = .handler → t.snapshot = s.snapshot) ∧
    (a = .osc → t.snapshot = s.snapshot) ∧
    (a = .main → s.atResetAction = true → t.snapshot = 0) ∧
    (a = .main → s.atResetAction = false → t.snapshot = s.snapshot)

/-- 41_time_query.md, the law the spec derives at R73: over a run without a reset action and without a lost
period, the composed value grows by the number of TIMER steps, modulo `2^32`, however the agents interleave.
-/
def Obligations.ComposedTimeCountsTheTicks : Prop :=
  ∀ (l : List Agent) (s t : State), s.tickInPeriod → runAgents l s = some t → ResetFree l s →
    NoPeriodLost s t → t.snapshot - s.snapshot = BitVec.ofNat 32 (l.count .timer)

/-- 41_time_query.md, the law the spec derives at R74: the composed value runs on across the wrap of
`UPTIME`. -/
def Obligations.ComposedTimeCrossesTheCounterWrap : Prop :=
  ∀ s : State, s.uptime = 0xFFFFFFFF → s.tick.toNat = Config.period - 1 → s.pef = false → ∃ t u : State,
    s.snapshot = 0xFFFFFFFF ∧ agentStep .timer s = .next t ∧ t.pef = true ∧ t.snapshot = 0 ∧
    agentStep .handler t = .next u ∧ u.uptime = 0 ∧ u.pef = false ∧ u.snapshot = 0

/-- 40_tick_and_handler.md section 1, the law the spec derives at R60: from `TICK = 0` exactly `P` TIMER
steps lead to the next rollover, and any `P` consecutive TIMER steps hold exactly one. -/
def Obligations.APeriodIsExactlyPTicks : Prop :=
  (∀ (s : State) (n : Nat), s.counting = true → s.tick = 0 → n < Config.period →
    runAgents (List.replicate n .timer) s = some { s with tick := BitVec.ofNat 16 n }) ∧
  (∀ s : State, s.counting = true → s.tickInPeriod →
    runAgents (List.replicate Config.period .timer) s =
      some { s with pef := true, lost := s.lost + s.pef.toNat })

/-- 40_tick_and_handler.md section 4, the counting law the spec derives at R68, for every interleaving and
from any point of a period: from a state with nothing pending, without a reset action and without a lost
period, once every rollover is served `UPTIME` has grown by the number of periods completed, which is the
number of HANDLER steps. -/
def Obligations.CountingLaw : Prop :=
  ∀ (l : List Agent) (s t : State), s.tickInPeriod → s.pef = false → runAgents l s = some t → ResetFree l s →
    NoPeriodLost s t → t.pef = false →
      t.uptime = s.uptime + BitVec.ofNat 32 ((s.tick.toNat + l.count .timer) / Config.period) ∧
      l.count .handler = (s.tick.toNat + l.count .timer) / Config.period

/-- 40_tick_and_handler.md section 4, the law the spec derives at R68 in the document's own setting: `N`
periods, each served before the next, and a `MILLIS` after them. -/
def Obligations.ServedPeriodsAdvanceTheCounter : Prop :=
  ∀ (N : Nat) (s : State), s.lc = .running → s.Inv → s.tick = 0 → s.pef = false → s.cmf = false →
    ∃ t u : State,
      runAgents (List.replicate N (List.replicate Config.period Agent.timer ++ [.handler])).flatten s = some t ∧
      t = { s with uptime := s.uptime + BitVec.ofNat 32 N } ∧
      exec .millis t = .next u ∧ u.res = some (s.uptime + BitVec.ofNat 32 N)

/-- 40_tick_and_handler.md rule R69: rollovers taken while one is pending are never counted; `LOST` counts
them, and one service later `UPTIME` has grown by 1. -/
def Obligations.LostPeriodsAreNeverCounted : Prop :=
  ∀ (N : Nat) (s : State), s.lc = .running → s.Inv → s.tick = 0 → s.pef = false →
    runAgents (List.replicate ((N + 1) * Config.period) .timer ++ [.handler]) s =
      some { s with uptime := s.uptime + 1, cmf := false, lost := s.lost + N }

/-- 43_lifecycle.md section 4, the law on `SUSPEND` the spec derives at R90, with 40_tick_and_handler.md rule
R58: while Suspended only MAIN has a step, no step but a reset action changes the timebase or the composed
value, and only `INIT`, `DEINIT` and `RESUME` end the suspension; so over a stream without them and without
`RESET` everything stays frozen, however long the run. -/
def Obligations.SuspendedTimebaseIsFrozen : Prop :=
  (∀ (a : Agent) (s t : State), s.Inv → s.lc = .suspended → StepsTo a s t →
    a = .main ∧ (s.atResetAction = false → KeepsTimebase s t ∧ t.snapshot = s.snapshot) ∧
    (t.lc ≠ .suspended → ∃ i, (i = .init ∨ i = .deinit ∨ i = .resume) ∧ s.fetch = some (encode i))) ∧
  (∀ (l : List Agent) (s t : State), s.Inv → s.lc = .suspended →
    (∀ i, encode i ∈ s.stream.drop s.cp → i ≠ .init ∧ i ≠ .deinit ∧ i ≠ .reset ∧ i ≠ .resume) →
    runAgents l s = some t →
      KeepsTimebase s t ∧ t.snapshot = s.snapshot ∧ t.lc = .suspended ∧ ∀ a ∈ l, a = .main)

/-! ### Delays and the start, over runs -/

/-- 42_delay.md, the law the spec derives at R79, for `DELAY_MS`: while it waits, however the agents
interleave, a poll completes it exactly when the number of HANDLER steps since its start, modulo `2^32`, has
reached `d`. -/
def Obligations.DelayMsWaitsForItsPeriods : Prop :=
  ∀ (l : List Agent) (d : Word) (s s1 u v : State), exec (.delayMs d) s = .next s1 → s.lc ≠ .uninitialized →
    d ≠ 0 → runAgents l s1 = some u → u.cp = s1.cp → StepsTo .main u v →
      (v.ms = .idle ↔ d.toNat ≤ l.count .handler % 2 ^ 32)

/-- 42_delay.md, the law the spec derives at R79, for `DELAY_US`: while it waits and no period is lost, a
poll completes it exactly when the number of TIMER steps since its start, modulo `2^32`, has reached `d`. -/
def Obligations.DelayUsWaitsForItsTicks : Prop :=
  ∀ (l : List Agent) (d : Word) (s s1 u v : State), s.tickInPeriod → exec (.delayUs d) s = .next s1 →
    s.lc ≠ .uninitialized → d ≠ 0 → runAgents l s1 = some u → u.cp = s1.cp → NoPeriodLost s1 u →
    StepsTo .main u v → (v.ms = .idle ↔ d.toNat ≤ l.count .timer % 2 ^ 32)

/-- 70_reset_and_hazards.md, the hazard the spec derives at R114: a delay with `d > 0` issued while
Suspended never completes. -/
def Obligations.DelayWhileSuspendedNeverCompletes : Prop :=
  ∀ (i : Instr) (d : Word) (s : State), i = .delayMs d ∨ i = .delayUs d → d ≠ 0 → s.Inv → s.lc = .suspended →
    ∃ s1, exec i s = .next s1 ∧ s1.ms ≠ .idle ∧
      ∀ (l : List Agent) (t : State), runAgents l s1 = some t → t.ms = s1.ms ∧ t.cp = s.cp ∧ t.lc = .suspended

/-- 43_lifecycle.md, which the spec derives at R85: what the completion of `INIT` leaves, whether it waited
or not. -/
def Obligations.InitLeavesARunningBlock : Prop :=
  ∀ s t : State, s.Inv → StepsTo .main s t → t.cp = s.cp + 1 →
    s.ms = .waitOsc ∨ (s.ms = .idle ∧ s.fetch = some (encode .init)) →
      t.lc = .running ∧ t.uptime = 0 ∧ t.tick = 0 ∧ t.pef = false ∧ t.cmf = false ∧ t.lost = 0 ∧
      t.oscen = true ∧ t.oscrdy = true ∧ t.cfg = true ∧ t.ie = true ∧ t.clken = true ∧ t.irqen = true ∧
      t.cnten = true ∧ t.counting = true ∧ t.res = s.res ∧ t.fault = s.fault

/-- 43_lifecycle.md rule R84 and 40_tick_and_handler.md rule R66: without a step of the OSC agent an `INIT`
that waits never completes. -/
def Obligations.InitHangsWithoutTheOscillator : Prop :=
  ∀ (l : List Agent) (s t : State), s.Inv → s.ms = .waitOsc → s.oscrdy = false → .osc ∉ l →
    runAgents l s = some t → t.ms = .waitOsc ∧ t.cp = s.cp ∧ t.lc = .uninitialized ∧ t.fault = 0

/-- 70_reset_and_hazards.md rule R117 and 42_delay.md section 3, the last law the spec derives at R79: how the
three waits of MAIN end in an infinite run. The oscillator's wait completes once the oscillator is ready, with
no fairness, since nothing but MAIN can step then. A waiting MAIN polls again in every run weakly fair to it,
whatever the other agents do. A delay issued in Running completes in every run weakly fair to MAIN and the
TIMER in which no period is lost in the wait and at most `2^32 − d` of the steps it counts pass between two
polls, a bound that is the model's choice (log entry 30; 70_reset_and_hazards.md rule R113 asks for fewer than
that); the fairness of the HANDLER is not needed, since without its steps a period would be lost. -/
def Obligations.WaitsCompleteUnderFairness : Prop :=
  ∀ (states : Nat → State) (agents : Nat → Agent), IsRun states agents → (states 0).Inv →
    ((states 0).ms = .waitOsc → (states 0).oscrdy = true ∨ (∃ k, agents k = .osc) →
      ∃ n, (states n).lc = .running ∧ (states n).ms = .idle ∧ (states n).cp = (states 0).cp + 1 ∧
        (states n).uptime = 0 ∧ (states n).tick = 0) ∧
    ((states 0).ms ≠ .idle → WeaklyFair .main states agents →
      ∀ n, WaitsUntil states n → ∃ m, n ≤ m ∧ WaitsUntil states m ∧ agents m = .main) ∧
    (∀ d : Word, (states 0).ms = .waitMs (states 0).uptime d → (states 0).lc = .running →
      (states 0).tickInPeriod → WeaklyFair .main states agents → WeaklyFair .timer states agents →
      NoPeriodLostInWait states → PollsInWindow .handler d states agents → WaitCompletes states agents) ∧
    (∀ d : Word, (states 0).ms = .waitUs (states 0).snapshot d → (states 0).lc = .running →
      (states 0).tickInPeriod → WeaklyFair .main states agents → WeaklyFair .timer states agents →
      NoPeriodLostInWait states → PollsInWindow .timer d states agents → WaitCompletes states agents)

/-- 43_lifecycle.md section 4, the law the spec derives at R90: `DEINIT` then `INIT` gives the state `INIT`
gives from power-on, except for `RES`, `CP` and what is no part of the block's timebase. -/
def Obligations.DeinitThenInitIsAFreshStart : Prop :=
  ∀ (s : State) (d : PowerOn), s.oscrdy = true → d.oscrdy = true → ∃ s1 s2 u : State,
    exec .deinit s = .next s1 ∧ exec .init s1 = .next s2 ∧
    exec .init (State.powerOn d s.stream) = .next u ∧
    s2 = { u with res := s.res, cp := s.cp + 2, fault := s.fault, sched := s.sched, turn := s.turn }
end

