-- ==== Sys2Proof/Laws/Decode.lean ====
section
/-! SUPPORT. The layout of a command word: its fields, its bytes, and the opcodes of the two groups. -/

namespace Sys2Proof

/-- Laying out fields and taking them apart again loses nothing. -/
theorem fieldsOf_wordOf (f : Fields) : fieldsOf (wordOf f) = f := by
  obtain ⟨op, rsvd, arg⟩ := f
  simp only [fieldsOf, wordOf, Fields.mk.injEq]
  refine ⟨?_, ?_, ?_⟩ <;> ext i hi <;> simp [BitVec.getElem_extractLsb'] <;> grind

/-- The other direction: a word is its three fields. -/
theorem wordOf_fieldsOf (w : CommandWord) : wordOf (fieldsOf w) = w := by
  ext i hi
  simp [fieldsOf, wordOf]
  grind

/-- Two words with the same fields are the same word. -/
theorem fieldsOf_injective {v w : CommandWord} (h : fieldsOf v = fieldsOf w) : v = w := by
  rw [← wordOf_fieldsOf v, h, wordOf_fieldsOf]

/-- The word assembled from a word's eight bytes is the word. -/
theorem takeCommandWord_commandBytes (w : CommandWord) (rest : List Byte) :
    takeCommandWord (commandBytes w ++ rest) = some (w, rest) := by
  simp only [commandBytes, commandByte, List.cons_append, List.nil_append, takeCommandWord,
    Option.some.injEq, Prod.mk.injEq, and_true]
  ext i hi
  simp
  grind

/-- Fewer than eight bytes hold no command word. -/
theorem takeCommandWord_short {bs : List Byte} (h : bs.length < 8) : takeCommandWord bs = none := by
  match bs, h with
  | [], _ | [_], _ | [_, _], _ | [_, _, _], _ | [_, _, _, _], _ | [_, _, _, _, _], _
  | [_, _, _, _, _, _], _ | [_, _, _, _, _, _, _], _ => rfl

/-- A command without an operand is found under its own opcode only. -/
theorem bareCommand_some {op : BitVec 8} {i : Instr} (h : bareCommand op = some i) :
    op = opcodeOf i ∧ operandOf i = 0 := by
  unfold bareCommand at h
  split_ifs at h <;> simp_all <;> subst h <;> exact ⟨rfl, rfl⟩

/-- A delay is found under its own opcode only, with the operand given. -/
theorem delayCommand_some {op : BitVec 8} {arg : Word} {i : Instr} (h : delayCommand op arg = some i) :
    op = opcodeOf i ∧ operandOf i = arg := by
  unfold delayCommand at h
  split_ifs at h <;> simp_all <;> subst h <;> exact ⟨rfl, rfl⟩

end Sys2Proof
end

