-- ==== Sys2Proof/Laws/Operands.lean ====
section
/-! SUPPORT. The tick composition engine and the comparison of a wait, as arithmetic on numbers. -/

namespace Sys2Proof.Machine

/-- The composition in numbers: `((c + f) × P + t) mod 2^32` (41_time_query.md rule R71). -/
theorem compose_eq (p : Nat) (c : Word) (f : Bool) (t : Tick) :
    compose p c f t = BitVec.ofNat 32 ((c.toNat + f.toNat) * p + t.toNat) := by
  apply BitVec.eq_of_toNat_eq
  cases f <;>
    simp [compose, flagWord, tickWord, BitVec.toNat_add, BitVec.toNat_mul, Nat.add_mod, Nat.mul_mod]

/-- A wait is over exactly when the elapsed difference has reached the duration (42_delay.md rule R78). -/
theorem waitOver_iff (now start d : Word) : waitOver now start d = true ↔ d.toNat ≤ (now - start).toNat := by
  simp [waitOver, uge]

/-- At the start of a delay only the duration 0 is over (42_delay.md rules R76 and R77). -/
theorem waitOver_self (start d : Word) : waitOver start start d = true ↔ d = 0 := by
  rw [waitOver_iff, BitVec.sub_self, BitVec.toNat_eq]
  simp

end Sys2Proof.Machine
end

