-- ==== Sys2Proof/Laws/PerInstr.lean ====
section
/-! SUPPORT. Facts about every command as syntax, one lemma per constructor. -/

namespace Sys2Proof.Laws.EncodingIsWellFormed

/-- The word the encoder gives a command has the command's opcode and operand, no reserved bit, and
passes every check on fields (30_encoding.md rules R47, R49 and R51). -/
def Statement (i : Instr) : Prop :=
  fieldsOf (encode i) = { op := opcodeOf i, rsvd := 0, arg := operandOf i } ∧
    (fieldsOf (encode i)).wellFormed = true

theorem init : Statement .init := by unfold Statement; decide

theorem deinit : Statement .deinit := by unfold Statement; decide

theorem reset : Statement .reset := by unfold Statement; decide

theorem suspend : Statement .suspend := by unfold Statement; decide

theorem resume : Statement .resume := by unfold Statement; decide

theorem millis : Statement .millis := by unfold Statement; decide

theorem micros : Statement .micros := by unfold Statement; decide

theorem delayMs (d : Word) : Statement (.delayMs d) :=
  ⟨fieldsOf_wordOf _, by rw [encode, fieldsOf_wordOf]; rfl⟩

theorem delayUs (d : Word) : Statement (.delayUs d) :=
  ⟨fieldsOf_wordOf _, by rw [encode, fieldsOf_wordOf]; rfl⟩

end Sys2Proof.Laws.EncodingIsWellFormed
end

