-- ==== Sys2Proof/Laws/State.lean ====
section
/-! SUPPORT. Each field after each update of the state, so that no later proof unfolds a record update. -/

namespace Sys2Proof.Machine

variable (s : State)

/-! `State.clearFlags` -/

@[simp] theorem State.clearFlags_uptime : s.clearFlags.uptime = s.uptime := rfl
@[simp] theorem State.clearFlags_tick : s.clearFlags.tick = s.tick := rfl
@[simp] theorem State.clearFlags_pef : s.clearFlags.pef = false := rfl
@[simp] theorem State.clearFlags_cmf : s.clearFlags.cmf = false := rfl
@[simp] theorem State.clearFlags_cfg : s.clearFlags.cfg = s.cfg := rfl
@[simp] theorem State.clearFlags_ie : s.clearFlags.ie = s.ie := rfl
@[simp] theorem State.clearFlags_cnten : s.clearFlags.cnten = s.cnten := rfl
@[simp] theorem State.clearFlags_clken : s.clearFlags.clken = s.clken := rfl
@[simp] theorem State.clearFlags_irqen : s.clearFlags.irqen = s.irqen := rfl
@[simp] theorem State.clearFlags_oscen : s.clearFlags.oscen = s.oscen := rfl
@[simp] theorem State.clearFlags_oscrdy : s.clearFlags.oscrdy = s.oscrdy := rfl
@[simp] theorem State.clearFlags_lc : s.clearFlags.lc = s.lc := rfl
@[simp] theorem State.clearFlags_ms : s.clearFlags.ms = s.ms := rfl
@[simp] theorem State.clearFlags_cp : s.clearFlags.cp = s.cp := rfl
@[simp] theorem State.clearFlags_res : s.clearFlags.res = s.res := rfl
@[simp] theorem State.clearFlags_fault : s.clearFlags.fault = s.fault := rfl
@[simp] theorem State.clearFlags_lost : s.clearFlags.lost = s.lost := rfl
@[simp] theorem State.clearFlags_stream : s.clearFlags.stream = s.stream := rfl
@[simp] theorem State.clearFlags_sched : s.clearFlags.sched = s.sched := rfl
@[simp] theorem State.clearFlags_turn : s.clearFlags.turn = s.turn := rfl

/-! `State.raisePef` -/

@[simp] theorem State.raisePef_uptime : s.raisePef.uptime = s.uptime := rfl
@[simp] theorem State.raisePef_tick : s.raisePef.tick = s.tick := rfl
@[simp] theorem State.raisePef_pef : s.raisePef.pef = true := rfl
@[simp] theorem State.raisePef_cmf : s.raisePef.cmf = s.cmf := rfl
@[simp] theorem State.raisePef_cfg : s.raisePef.cfg = s.cfg := rfl
@[simp] theorem State.raisePef_ie : s.raisePef.ie = s.ie := rfl
@[simp] theorem State.raisePef_cnten : s.raisePef.cnten = s.cnten := rfl
@[simp] theorem State.raisePef_clken : s.raisePef.clken = s.clken := rfl
@[simp] theorem State.raisePef_irqen : s.raisePef.irqen = s.irqen := rfl
@[simp] theorem State.raisePef_oscen : s.raisePef.oscen = s.oscen := rfl
@[simp] theorem State.raisePef_oscrdy : s.raisePef.oscrdy = s.oscrdy := rfl
@[simp] theorem State.raisePef_lc : s.raisePef.lc = s.lc := rfl
@[simp] theorem State.raisePef_ms : s.raisePef.ms = s.ms := rfl
@[simp] theorem State.raisePef_cp : s.raisePef.cp = s.cp := rfl
@[simp] theorem State.raisePef_res : s.raisePef.res = s.res := rfl
@[simp] theorem State.raisePef_fault : s.raisePef.fault = s.fault := rfl
@[simp] theorem State.raisePef_lost : s.raisePef.lost = if s.pef then s.lost + 1 else s.lost := rfl
@[simp] theorem State.raisePef_stream : s.raisePef.stream = s.stream := rfl
@[simp] theorem State.raisePef_sched : s.raisePef.sched = s.sched := rfl
@[simp] theorem State.raisePef_turn : s.raisePef.turn = s.turn := rfl

/-! `State.complete` -/

@[simp] theorem State.complete_uptime : s.complete.uptime = s.uptime := rfl
@[simp] theorem State.complete_tick : s.complete.tick = s.tick := rfl
@[simp] theorem State.complete_pef : s.complete.pef = s.pef := rfl
@[simp] theorem State.complete_cmf : s.complete.cmf = s.cmf := rfl
@[simp] theorem State.complete_cfg : s.complete.cfg = s.cfg := rfl
@[simp] theorem State.complete_ie : s.complete.ie = s.ie := rfl
@[simp] theorem State.complete_cnten : s.complete.cnten = s.cnten := rfl
@[simp] theorem State.complete_clken : s.complete.clken = s.clken := rfl
@[simp] theorem State.complete_irqen : s.complete.irqen = s.irqen := rfl
@[simp] theorem State.complete_oscen : s.complete.oscen = s.oscen := rfl
@[simp] theorem State.complete_oscrdy : s.complete.oscrdy = s.oscrdy := rfl
@[simp] theorem State.complete_lc : s.complete.lc = s.lc := rfl
@[simp] theorem State.complete_ms : s.complete.ms = .idle := rfl
@[simp] theorem State.complete_cp : s.complete.cp = s.cp + 1 := rfl
@[simp] theorem State.complete_res : s.complete.res = s.res := rfl
@[simp] theorem State.complete_fault : s.complete.fault = s.fault := rfl
@[simp] theorem State.complete_lost : s.complete.lost = s.lost := rfl
@[simp] theorem State.complete_stream : s.complete.stream = s.stream := rfl
@[simp] theorem State.complete_sched : s.complete.sched = s.sched := rfl
@[simp] theorem State.complete_turn : s.complete.turn = s.turn := rfl

/-! `State.raiseFault` -/

@[simp] theorem State.raiseFault_uptime (c : FaultCode) : (s.raiseFault c).uptime = s.uptime := rfl
@[simp] theorem State.raiseFault_tick (c : FaultCode) : (s.raiseFault c).tick = s.tick := rfl
@[simp] theorem State.raiseFault_pef (c : FaultCode) : (s.raiseFault c).pef = s.pef := rfl
@[simp] theorem State.raiseFault_cmf (c : FaultCode) : (s.raiseFault c).cmf = s.cmf := rfl
@[simp] theorem State.raiseFault_cfg (c : FaultCode) : (s.raiseFault c).cfg = s.cfg := rfl
@[simp] theorem State.raiseFault_ie (c : FaultCode) : (s.raiseFault c).ie = s.ie := rfl
@[simp] theorem State.raiseFault_cnten (c : FaultCode) : (s.raiseFault c).cnten = s.cnten := rfl
@[simp] theorem State.raiseFault_clken (c : FaultCode) : (s.raiseFault c).clken = s.clken := rfl
@[simp] theorem State.raiseFault_irqen (c : FaultCode) : (s.raiseFault c).irqen = s.irqen := rfl
@[simp] theorem State.raiseFault_oscen (c : FaultCode) : (s.raiseFault c).oscen = s.oscen := rfl
@[simp] theorem State.raiseFault_oscrdy (c : FaultCode) : (s.raiseFault c).oscrdy = s.oscrdy := rfl
@[simp] theorem State.raiseFault_lc (c : FaultCode) : (s.raiseFault c).lc = s.lc := rfl
@[simp] theorem State.raiseFault_ms (c : FaultCode) : (s.raiseFault c).ms = s.ms := rfl
@[simp] theorem State.raiseFault_cp (c : FaultCode) : (s.raiseFault c).cp = s.cp := rfl
@[simp] theorem State.raiseFault_res (c : FaultCode) : (s.raiseFault c).res = s.res := rfl
@[simp] theorem State.raiseFault_fault (c : FaultCode) : (s.raiseFault c).fault = c.code := rfl
@[simp] theorem State.raiseFault_lost (c : FaultCode) : (s.raiseFault c).lost = s.lost := rfl
@[simp] theorem State.raiseFault_stream (c : FaultCode) : (s.raiseFault c).stream = s.stream := rfl
@[simp] theorem State.raiseFault_sched (c : FaultCode) : (s.raiseFault c).sched = s.sched := rfl
@[simp] theorem State.raiseFault_turn (c : FaultCode) : (s.raiseFault c).turn = s.turn := rfl

/-! `State.resetAction` -/

@[simp] theorem State.resetAction_uptime : s.resetAction.uptime = 0 := rfl
@[simp] theorem State.resetAction_tick : s.resetAction.tick = 0 := rfl
@[simp] theorem State.resetAction_pef : s.resetAction.pef = false := rfl
@[simp] theorem State.resetAction_cmf : s.resetAction.cmf = false := rfl
@[simp] theorem State.resetAction_cfg : s.resetAction.cfg = s.cfg := rfl
@[simp] theorem State.resetAction_ie : s.resetAction.ie = s.ie := rfl
@[simp] theorem State.resetAction_cnten : s.resetAction.cnten = s.cnten := rfl
@[simp] theorem State.resetAction_clken : s.resetAction.clken = s.clken := rfl
@[simp] theorem State.resetAction_irqen : s.resetAction.irqen = s.irqen := rfl
@[simp] theorem State.resetAction_oscen : s.resetAction.oscen = s.oscen := rfl
@[simp] theorem State.resetAction_oscrdy : s.resetAction.oscrdy = s.oscrdy := rfl
@[simp] theorem State.resetAction_lc : s.resetAction.lc = s.lc := rfl
@[simp] theorem State.resetAction_ms : s.resetAction.ms = s.ms := rfl
@[simp] theorem State.resetAction_cp : s.resetAction.cp = s.cp := rfl
@[simp] theorem State.resetAction_res : s.resetAction.res = s.res := rfl
@[simp] theorem State.resetAction_fault : s.resetAction.fault = s.fault := rfl
@[simp] theorem State.resetAction_lost : s.resetAction.lost = 0 := rfl
@[simp] theorem State.resetAction_stream : s.resetAction.stream = s.stream := rfl
@[simp] theorem State.resetAction_sched : s.resetAction.sched = s.sched := rfl
@[simp] theorem State.resetAction_turn : s.resetAction.turn = s.turn := rfl

/-! `State.startAction` -/

@[simp] theorem State.startAction_uptime : s.startAction.uptime = s.uptime := rfl
@[simp] theorem State.startAction_tick : s.startAction.tick = s.tick := rfl
@[simp] theorem State.startAction_pef : s.startAction.pef = s.pef := rfl
@[simp] theorem State.startAction_cmf : s.startAction.cmf = s.cmf := rfl
@[simp] theorem State.startAction_cfg : s.startAction.cfg = true := rfl
@[simp] theorem State.startAction_ie : s.startAction.ie = true := rfl
@[simp] theorem State.startAction_cnten : s.startAction.cnten = true := rfl
@[simp] theorem State.startAction_clken : s.startAction.clken = true := rfl
@[simp] theorem State.startAction_irqen : s.startAction.irqen = true := rfl
@[simp] theorem State.startAction_oscen : s.startAction.oscen = s.oscen := rfl
@[simp] theorem State.startAction_oscrdy : s.startAction.oscrdy = s.oscrdy := rfl
@[simp] theorem State.startAction_lc : s.startAction.lc = s.lc := rfl
@[simp] theorem State.startAction_ms : s.startAction.ms = s.ms := rfl
@[simp] theorem State.startAction_cp : s.startAction.cp = s.cp := rfl
@[simp] theorem State.startAction_res : s.startAction.res = s.res := rfl
@[simp] theorem State.startAction_fault : s.startAction.fault = s.fault := rfl
@[simp] theorem State.startAction_lost : s.startAction.lost = s.lost := rfl
@[simp] theorem State.startAction_stream : s.startAction.stream = s.stream := rfl
@[simp] theorem State.startAction_sched : s.startAction.sched = s.sched := rfl
@[simp] theorem State.startAction_turn : s.startAction.turn = s.turn := rfl

/-! `State.finishInit` -/

@[simp] theorem State.finishInit_uptime : s.finishInit.uptime = s.uptime := rfl
@[simp] theorem State.finishInit_tick : s.finishInit.tick = s.tick := rfl
@[simp] theorem State.finishInit_pef : s.finishInit.pef = s.pef := rfl
@[simp] theorem State.finishInit_cmf : s.finishInit.cmf = s.cmf := rfl
@[simp] theorem State.finishInit_cfg : s.finishInit.cfg = true := rfl
@[simp] theorem State.finishInit_ie : s.finishInit.ie = true := rfl
@[simp] theorem State.finishInit_cnten : s.finishInit.cnten = true := rfl
@[simp] theorem State.finishInit_clken : s.finishInit.clken = true := rfl
@[simp] theorem State.finishInit_irqen : s.finishInit.irqen = true := rfl
@[simp] theorem State.finishInit_oscen : s.finishInit.oscen = s.oscen := rfl
@[simp] theorem State.finishInit_oscrdy : s.finishInit.oscrdy = s.oscrdy := rfl
@[simp] theorem State.finishInit_lc : s.finishInit.lc = .running := rfl
@[simp] theorem State.finishInit_ms : s.finishInit.ms = .idle := rfl
@[simp] theorem State.finishInit_cp : s.finishInit.cp = s.cp + 1 := rfl
@[simp] theorem State.finishInit_res : s.finishInit.res = s.res := rfl
@[simp] theorem State.finishInit_fault : s.finishInit.fault = s.fault := rfl
@[simp] theorem State.finishInit_lost : s.finishInit.lost = s.lost := rfl
@[simp] theorem State.finishInit_stream : s.finishInit.stream = s.stream := rfl
@[simp] theorem State.finishInit_sched : s.finishInit.sched = s.sched := rfl
@[simp] theorem State.finishInit_turn : s.finishInit.turn = s.turn := rfl

/-! `State.advance` -/

@[simp] theorem State.advance_uptime : s.advance.uptime = s.uptime := rfl
@[simp] theorem State.advance_tick : s.advance.tick = s.tick := rfl
@[simp] theorem State.advance_pef : s.advance.pef = s.pef := rfl
@[simp] theorem State.advance_cmf : s.advance.cmf = s.cmf := rfl
@[simp] theorem State.advance_cfg : s.advance.cfg = s.cfg := rfl
@[simp] theorem State.advance_ie : s.advance.ie = s.ie := rfl
@[simp] theorem State.advance_cnten : s.advance.cnten = s.cnten := rfl
@[simp] theorem State.advance_clken : s.advance.clken = s.clken := rfl
@[simp] theorem State.advance_irqen : s.advance.irqen = s.irqen := rfl
@[simp] theorem State.advance_oscen : s.advance.oscen = s.oscen := rfl
@[simp] theorem State.advance_oscrdy : s.advance.oscrdy = s.oscrdy := rfl
@[simp] theorem State.advance_lc : s.advance.lc = s.lc := rfl
@[simp] theorem State.advance_ms : s.advance.ms = s.ms := rfl
@[simp] theorem State.advance_cp : s.advance.cp = s.cp := rfl
@[simp] theorem State.advance_res : s.advance.res = s.res := rfl
@[simp] theorem State.advance_fault : s.advance.fault = s.fault := rfl
@[simp] theorem State.advance_lost : s.advance.lost = s.lost := rfl
@[simp] theorem State.advance_stream : s.advance.stream = s.stream := rfl
@[simp] theorem State.advance_sched : s.advance.sched = s.sched.tail := rfl
@[simp] theorem State.advance_turn : s.advance.turn = s.turn + 1 := rfl

/-! `State.answer` -/

@[simp] theorem State.answer_uptime (v : Word) : (s.answer v).uptime = s.uptime := rfl
@[simp] theorem State.answer_tick (v : Word) : (s.answer v).tick = s.tick := rfl
@[simp] theorem State.answer_pef (v : Word) : (s.answer v).pef = s.pef := rfl
@[simp] theorem State.answer_cmf (v : Word) : (s.answer v).cmf = s.cmf := rfl
@[simp] theorem State.answer_cfg (v : Word) : (s.answer v).cfg = s.cfg := rfl
@[simp] theorem State.answer_ie (v : Word) : (s.answer v).ie = s.ie := rfl
@[simp] theorem State.answer_cnten (v : Word) : (s.answer v).cnten = s.cnten := rfl
@[simp] theorem State.answer_clken (v : Word) : (s.answer v).clken = s.clken := rfl
@[simp] theorem State.answer_irqen (v : Word) : (s.answer v).irqen = s.irqen := rfl
@[simp] theorem State.answer_oscen (v : Word) : (s.answer v).oscen = s.oscen := rfl
@[simp] theorem State.answer_oscrdy (v : Word) : (s.answer v).oscrdy = s.oscrdy := rfl
@[simp] theorem State.answer_lc (v : Word) : (s.answer v).lc = s.lc := rfl
@[simp] theorem State.answer_ms (v : Word) : (s.answer v).ms = .idle := rfl
@[simp] theorem State.answer_cp (v : Word) : (s.answer v).cp = s.cp + 1 := rfl
@[simp] theorem State.answer_res (v : Word) : (s.answer v).res = some v := rfl
@[simp] theorem State.answer_fault (v : Word) : (s.answer v).fault = s.fault := rfl
@[simp] theorem State.answer_lost (v : Word) : (s.answer v).lost = s.lost := rfl
@[simp] theorem State.answer_stream (v : Word) : (s.answer v).stream = s.stream := rfl
@[simp] theorem State.answer_sched (v : Word) : (s.answer v).sched = s.sched := rfl
@[simp] theorem State.answer_turn (v : Word) : (s.answer v).turn = s.turn := rfl

/-! `State.handlerStep` -/

@[simp] theorem State.handlerStep_uptime : s.handlerStep.uptime = s.uptime + 1 := rfl
@[simp] theorem State.handlerStep_tick : s.handlerStep.tick = s.tick := rfl
@[simp] theorem State.handlerStep_pef : s.handlerStep.pef = false := rfl
@[simp] theorem State.handlerStep_cmf : s.handlerStep.cmf = false := rfl
@[simp] theorem State.handlerStep_cfg : s.handlerStep.cfg = s.cfg := rfl
@[simp] theorem State.handlerStep_ie : s.handlerStep.ie = s.ie := rfl
@[simp] theorem State.handlerStep_cnten : s.handlerStep.cnten = s.cnten := rfl
@[simp] theorem State.handlerStep_clken : s.handlerStep.clken = s.clken := rfl
@[simp] theorem State.handlerStep_irqen : s.handlerStep.irqen = s.irqen := rfl
@[simp] theorem State.handlerStep_oscen : s.handlerStep.oscen = s.oscen := rfl
@[simp] theorem State.handlerStep_oscrdy : s.handlerStep.oscrdy = s.oscrdy := rfl
@[simp] theorem State.handlerStep_lc : s.handlerStep.lc = s.lc := rfl
@[simp] theorem State.handlerStep_ms : s.handlerStep.ms = s.ms := rfl
@[simp] theorem State.handlerStep_cp : s.handlerStep.cp = s.cp := rfl
@[simp] theorem State.handlerStep_res : s.handlerStep.res = s.res := rfl
@[simp] theorem State.handlerStep_fault : s.handlerStep.fault = s.fault := rfl
@[simp] theorem State.handlerStep_lost : s.handlerStep.lost = s.lost := rfl
@[simp] theorem State.handlerStep_stream : s.handlerStep.stream = s.stream := rfl
@[simp] theorem State.handlerStep_sched : s.handlerStep.sched = s.sched := rfl
@[simp] theorem State.handlerStep_turn : s.handlerStep.turn = s.turn := rfl

/-! `State.oscStep` -/

@[simp] theorem State.oscStep_uptime : s.oscStep.uptime = s.uptime := rfl
@[simp] theorem State.oscStep_tick : s.oscStep.tick = s.tick := rfl
@[simp] theorem State.oscStep_pef : s.oscStep.pef = s.pef := rfl
@[simp] theorem State.oscStep_cmf : s.oscStep.cmf = s.cmf := rfl
@[simp] theorem State.oscStep_cfg : s.oscStep.cfg = s.cfg := rfl
@[simp] theorem State.oscStep_ie : s.oscStep.ie = s.ie := rfl
@[simp] theorem State.oscStep_cnten : s.oscStep.cnten = s.cnten := rfl
@[simp] theorem State.oscStep_clken : s.oscStep.clken = s.clken := rfl
@[simp] theorem State.oscStep_irqen : s.oscStep.irqen = s.irqen := rfl
@[simp] theorem State.oscStep_oscen : s.oscStep.oscen = s.oscen := rfl
@[simp] theorem State.oscStep_oscrdy : s.oscStep.oscrdy = true := rfl
@[simp] theorem State.oscStep_lc : s.oscStep.lc = s.lc := rfl
@[simp] theorem State.oscStep_ms : s.oscStep.ms = s.ms := rfl
@[simp] theorem State.oscStep_cp : s.oscStep.cp = s.cp := rfl
@[simp] theorem State.oscStep_res : s.oscStep.res = s.res := rfl
@[simp] theorem State.oscStep_fault : s.oscStep.fault = s.fault := rfl
@[simp] theorem State.oscStep_lost : s.oscStep.lost = s.lost := rfl
@[simp] theorem State.oscStep_stream : s.oscStep.stream = s.stream := rfl
@[simp] theorem State.oscStep_sched : s.oscStep.sched = s.sched := rfl
@[simp] theorem State.oscStep_turn : s.oscStep.turn = s.turn := rfl

end Sys2Proof.Machine
end

