-- ==== Sys2Proof/Laws/Steps.lean ====
section
/-! SUPPORT. What each shared operation and each step can do, said once: the provers cite these instead
of unfolding the step. -/

namespace Sys2Proof.Machine

/-! ### The shared operations -/

/-- A use of the timebase leads to the given state, or in Uninitialized to the fault. -/
theorem guardQuery_eq (s t : State) :
    guardQuery s t = .next (if s.lc = .uninitialized then s.raiseFault .undefinedQuery else t) := by
  unfold guardQuery; split <;> rfl

/-- A transition leads to the target from its source, and elsewhere to the fault. -/
theorem transition_eq (a b : Lifecycle) (c : Bool) (s : State) :
    transition a b c s =
      .next (if s.lc = a then { s with cnten := c, lc := b }.complete else s.raiseFault .illegalTransition) := by
  unfold transition; split <;> rfl

/-- `INIT` starts the timebase when the oscillator is ready, and else waits for it (43_lifecycle.md rule R83). -/
theorem execInit_eq (s : State) :
    execInit s = .next (if s.oscrdy = true then ({ s.resetAction with oscen := true } : State).finishInit
      else { s.resetAction with oscen := true, ms := .waitOsc }) := by
  by_cases h : s.oscrdy = true <;> simp [execInit, h]

/-- One tick is a rollover or a count. -/
theorem timerTick_cases (p : Nat) (s : State) :
    (s.tick.toNat = p - 1 ∧ s.timerTick p = { s.raisePef with tick := 0 }) ∨
      (s.tick.toNat ≠ p - 1 ∧ s.timerTick p = { s with tick := s.tick + 1 }) := by
  unfold State.timerTick; split <;> simp_all

/-- An agent's turn answers a next state exactly where the agent is enabled and steps there. -/
theorem runAgent_next {a : Agent} {s t : State} :
    runAgent a s = .next t ↔ StepsTo a s t := by
  unfold runAgent StepsTo
  split <;> simp_all

/-- A list of agents runs by its head's step and then the rest. -/
theorem runAgents_cons {a : Agent} {rest : List Agent} {s u : State} :
    runAgents (a :: rest) s = some u ↔ ∃ t, StepsTo a s t ∧ runAgents rest t = some u := by
  simp only [runAgents, ← runAgent_next]
  cases runAgent a s <;> simp

/-- Running two lists one after the other. -/
theorem runAgents_append {l m : List Agent} {s u : State} :
    runAgents (l ++ m) s = some u ↔ ∃ t, runAgents l s = some t ∧ runAgents m t = some u := by
  induction l generalizing s with
  | nil => simp [runAgents]
  | cons a rest ih => simp only [List.cons_append, runAgents_cons, ih]; grind

/-- An event's steps are its agents' steps, from a state where MAIN is as the event needs it
(30_encoding.md rule R55). -/
theorem runEvent_some {e : Event} {s t : State} :
    runEvent e s = some t ↔ e.fits s = true ∧ runAgents e.agents s = some t := by
  unfold runEvent; split <;> simp_all

/-- `[poll]` is one step of MAIN in a wait. -/
theorem runEvent_poll {s t : State} : runEvent .poll s = some t ↔ s.ms ≠ .idle ∧ StepsTo .main s t := by
  simp only [runEvent_some, Event.fits, Event.agents, runAgents_cons]
  simp [runAgents]

/-- A schedule runs by its first event's steps and then the rest. -/
theorem runEvents_cons {e : Event} {rest : List Event} {s u : State} :
    runEvents (e :: rest) s = some u ↔ ∃ t, runEvent e s = some t ∧ runEvents rest t = some u := by
  simp only [runEvents]
  cases runEvent e s <;> simp

/-- A schedule that describes a run leads where the agents it names lead. -/
theorem runEvents_agents {events : List Event} {s t : State} (h : runEvents events s = some t) :
    scheduleOf events s = some (events.flatMap Event.agents) ∧
      runAgents (events.flatMap Event.agents) s = some t := by
  refine ⟨by simp [scheduleOf, h], ?_⟩
  induction events generalizing s with
  | nil => exact h
  | cons e rest ih =>
    obtain ⟨u, first, rest_run⟩ := runEvents_cons.1 h
    exact List.flatMap_cons ▸ runAgents_append.2 ⟨u, (runEvent_some.1 first).2, ih rest_run⟩

/-- A delay's first step is over for the duration 0 alone (42_delay.md rules R76 and R77). -/
theorem State.beginDelay_eq (s : State) (start d : Word) (wait : WaitState) :
    s.beginDelay start d wait = if d = 0 then s.complete else { s with ms := wait } := by
  simp only [State.beginDelay, waitOver_self]

/-- Running the machine one step more. -/
theorem core_run_succ (k : Nat) (s : State) :
    Host.Core.run Sys2Proof.core (k + 1) s =
      match step s with
      | .next t => Host.Core.run Sys2Proof.core k t
      | .fault r => .fault r
      | .refused r => .refused r := by
  refine (Host.Core.run.eq_2 Sys2Proof.core s k).trans ?_
  have h : Sys2Proof.core.step s = step s := rfl
  rw [h]
  cases step s <;> rfl

/-! ### What one agent's step does -/

/-- Every way a step of an agent can go, with the state it leads to. -/
inductive Effect (s : State) : Agent → State → Prop where
  | timerCounts (h : s.tick.toNat ≠ Config.period - 1) : Effect s .timer { s with tick := s.tick + 1 }
  | timerRolls (h : s.tick.toNat = Config.period - 1) : Effect s .timer { s.raisePef with tick := 0 }
  | handler : Effect s .handler s.handlerStep
  | osc : Effect s .osc s.oscStep
  | illegal (w : CommandWord) (e : Illegal) (idle : s.ms = .idle) (at_ : s.fetch = some w)
      (bad : decode w = .error e) : Effect s .main (s.raiseFault .illegalCommand)
  | undefinedQuery (w : CommandWord) (i : Instr) (idle : s.ms = .idle) (at_ : s.fetch = some w)
      (ok : decode w = .ok i) (use : i = .millis ∨ i = .micros ∨ (∃ d, i = .delayMs d) ∨ ∃ d, i = .delayUs d)
      (lc : s.lc = .uninitialized) : Effect s .main (s.raiseFault .undefinedQuery)
  | illegalTransition (w : CommandWord) (i : Instr) (idle : s.ms = .idle) (at_ : s.fetch = some w)
      (ok : decode w = .ok i)
      (use : (i = .suspend ∧ s.lc ≠ .running) ∨ (i = .resume ∧ s.lc ≠ .suspended)) :
      Effect s .main (s.raiseFault .illegalTransition)
  | query (w : CommandWord) (i : Instr) (v : Word) (idle : s.ms = .idle) (at_ : s.fetch = some w)
      (ok : decode w = .ok i) (use : (i = .millis ∧ v = s.uptime) ∨ (i = .micros ∧ v = s.snapshot))
      (lc : s.lc ≠ .uninitialized) : Effect s .main (s.answer v)
  | delayOver (w : CommandWord) (i : Instr) (idle : s.ms = .idle) (at_ : s.fetch = some w)
      (ok : decode w = .ok i) (use : i = .delayMs 0 ∨ i = .delayUs 0) (lc : s.lc ≠ .uninitialized) :
      Effect s .main s.complete
  | delayMsWaits (w : CommandWord) (d : Word) (idle : s.ms = .idle) (at_ : s.fetch = some w)
      (ok : decode w = .ok (.delayMs d)) (pos : d ≠ 0) (lc : s.lc ≠ .uninitialized) :
      Effect s .main { s with ms := .waitMs s.uptime d }
  | delayUsWaits (w : CommandWord) (d : Word) (idle : s.ms = .idle) (at_ : s.fetch = some w)
      (ok : decode w = .ok (.delayUs d)) (pos : d ≠ 0) (lc : s.lc ≠ .uninitialized) :
      Effect s .main { s with ms := .waitUs s.snapshot d }
  | reset (w : CommandWord) (idle : s.ms = .idle) (at_ : s.fetch = some w) (ok : decode w = .ok .reset) :
      Effect s .main s.resetAction.complete
  | deinit (w : CommandWord) (idle : s.ms = .idle) (at_ : s.fetch = some w) (ok : decode w = .ok .deinit) :
      Effect s .main
        { ({ s with irqen := false, clken := false } : State).resetAction with lc := .uninitialized }.complete
  | initStarts (w : CommandWord) (idle : s.ms = .idle) (at_ : s.fetch = some w) (ok : decode w = .ok .init)
      (rdy : s.oscrdy = true) : Effect s .main ({ s.resetAction with oscen := true } : State).finishInit
  | initWaits (w : CommandWord) (idle : s.ms = .idle) (at_ : s.fetch = some w) (ok : decode w = .ok .init)
      (rdy : s.oscrdy = false) : Effect s .main { s.resetAction with oscen := true, ms := .waitOsc }
  | suspend (w : CommandWord) (idle : s.ms = .idle) (at_ : s.fetch = some w) (ok : decode w = .ok .suspend)
      (lc : s.lc = .running) : Effect s .main { s with cnten := false, lc := .suspended }.complete
  | resume (w : CommandWord) (idle : s.ms = .idle) (at_ : s.fetch = some w) (ok : decode w = .ok .resume)
      (lc : s.lc = .suspended) : Effect s .main { s with cnten := true, lc := .running }.complete
  | oscPollStarts (wait : s.ms = .waitOsc) (rdy : s.oscrdy = true) : Effect s .main s.finishInit
  | oscPollHolds (wait : s.ms = .waitOsc) (rdy : s.oscrdy = false) : Effect s .main s
  | msPollOver (start d : Word) (wait : s.ms = .waitMs start d) (met : waitOver s.uptime start d = true) :
      Effect s .main s.complete
  | msPollHolds (start d : Word) (wait : s.ms = .waitMs start d) (met : waitOver s.uptime start d = false) :
      Effect s .main s
  | usPollOver (start d : Word) (wait : s.ms = .waitUs start d) (met : waitOver s.snapshot start d = true) :
      Effect s .main s.complete
  | usPollHolds (start d : Word) (wait : s.ms = .waitUs start d) (met : waitOver s.snapshot start d = false) :
      Effect s .main s

/-- The effect of a fetched command. -/
theorem exec_effect {w : CommandWord} {i : Instr} {s t : State} (idle : s.ms = .idle) (at_ : s.fetch = some w)
    (ok : decode w = .ok i) (h : exec i s = .next t) : Effect s .main t := by
  cases i with
  | init =>
    simp only [exec, execInit] at h
    split at h
    next rdy => cases h; exact .initStarts w idle at_ ok rdy
    next rdy => cases h; exact .initWaits w idle at_ ok (by simpa using rdy)
  | deinit => cases h; exact .deinit w idle at_ ok
  | reset => cases h; exact .reset w idle at_ ok
  | suspend =>
    simp only [exec, execSuspend, transition] at h
    split at h
    next lc => cases h; exact .suspend w idle at_ ok lc
    next lc => cases h; exact .illegalTransition w _ idle at_ ok (.inl ⟨rfl, lc⟩)
  | resume =>
    simp only [exec, execResume, transition] at h
    split at h
    next lc => cases h; exact .resume w idle at_ ok lc
    next lc => cases h; exact .illegalTransition w _ idle at_ ok (.inr ⟨rfl, lc⟩)
  | millis =>
    simp only [exec, execMillis, guardQuery] at h
    split at h
    next lc => cases h; exact .undefinedQuery w _ idle at_ ok (.inl rfl) lc
    next lc => cases h; exact .query w _ _ idle at_ ok (.inl ⟨rfl, rfl⟩) lc
  | micros =>
    simp only [exec, execMicros, guardQuery] at h
    split at h
    next lc => cases h; exact .undefinedQuery w _ idle at_ ok (.inr (.inl rfl)) lc
    next lc => cases h; exact .query w _ _ idle at_ ok (.inr ⟨rfl, rfl⟩) lc
  | delayMs d =>
    simp only [exec, execDelayMs, guardQuery, State.beginDelay] at h
    split at h
    next lc => cases h; exact .undefinedQuery w _ idle at_ ok (.inr (.inr (.inl ⟨d, rfl⟩))) lc
    next lc =>
      split at h
      next met =>
        obtain rfl := (waitOver_self _ _).1 met
        cases h; exact .delayOver w _ idle at_ ok (.inl rfl) lc
      next met =>
        cases h; exact .delayMsWaits w d idle at_ ok (fun hd => met ((waitOver_self _ _).2 hd)) lc
  | delayUs d =>
    simp only [exec, execDelayUs, guardQuery, State.beginDelay] at h
    split at h
    next lc => cases h; exact .undefinedQuery w _ idle at_ ok (.inr (.inr (.inr ⟨d, rfl⟩))) lc
    next lc =>
      split at h
      next met =>
        obtain rfl := (waitOver_self _ _).1 met
        cases h; exact .delayOver w _ idle at_ ok (.inr rfl) lc
      next met =>
        cases h; exact .delayUsWaits w d idle at_ ok (fun hd => met ((waitOver_self _ _).2 hd)) lc

/-- The effect of any agent's step: the one inversion lemma of the machine. -/
theorem agentStep_effect {a : Agent} {s t : State} (h : agentStep a s = .next t) : Effect s a t := by
  cases a with
  | main =>
    simp only [agentStep, mainStep] at h
    split at h
    next idle =>
      split at h
      next w at_ =>
        simp only [performWord] at h
        split at h
        next i ok => exact exec_effect idle at_ ok h
        next e bad => cases h; exact .illegal w e idle at_ bad
      next => cases h
    next wait =>
      simp only [State.pollOsc] at h
      split at h
      next rdy => cases h; exact .oscPollStarts wait rdy
      next rdy => cases h; exact .oscPollHolds wait (by simpa using rdy)
    next start d wait =>
      simp only [State.pollDelay] at h
      split at h
      next met => cases h; exact .msPollOver start d wait met
      next met => cases h; exact .msPollHolds start d wait (by simpa using met)
    next start d wait =>
      simp only [State.pollDelay] at h
      split at h
      next met => cases h; exact .usPollOver start d wait met
      next met => cases h; exact .usPollHolds start d wait (by simpa using met)
  | timer =>
    obtain ⟨c, e⟩ | ⟨c, e⟩ := timerTick_cases Config.period s
    · simp only [agentStep, State.timerStep, e] at h
      cases h; exact .timerRolls c
    · simp only [agentStep, State.timerStep, e] at h
      cases h; exact .timerCounts c
  | handler => cases h; exact .handler
  | osc => cases h; exact .osc

/-- The effect of an enabled agent's step. -/
theorem StepsTo.effect {a : Agent} {s t : State} (h : StepsTo a s t) : Effect s a t := agentStep_effect h.2

/-! ### The end of a run -/

/-- Only MAIN's completion of the last command leads to the end of a run (70_reset_and_hazards.md rule R119). -/
theorem StepsTo.ended {a : Agent} {s t : State} (h : StepsTo a s t) (before : s.ended = false)
    (after : t.ended = true) : a = .main ∧ t.cp = s.cp + 1 := by
  have enabled := h.1
  have h := h.effect
  simp only [State.ended, Bool.and_eq_true, decide_eq_true_eq, beq_iff_eq, Bool.and_eq_false_iff,
    decide_eq_false_iff_not, beq_eq_false_iff_ne] at before after
  cases h <;> simp_all [State.enabled, State.mainReady, FaultCode.code]

/-- An observation is of a run's end, and of a run that its agents' steps lead there (70_reset_and_hazards.md
rule R119). -/
theorem observe_some {l : List Agent} {s u : State} {values : List Word} (h : observe l s = some (values, u)) :
    u.ended = true ∧ ∃ m rest, l = m ++ rest ∧ runAgents m s = some u := by
  induction l generalizing s values with
  | nil =>
    simp only [observe] at h
    split at h
    next atEnd => cases h; exact ⟨atEnd, [], [], rfl, rfl⟩
    next => cases h
  | cons a l ih =>
    simp only [observe] at h
    split at h
    next atEnd => cases h; exact ⟨atEnd, [], _, rfl, rfl⟩
    next =>
      split at h
      next t next =>
        obtain ⟨o, rest_run, eq⟩ := Option.map_eq_some_iff.1 h
        cases eq
        obtain ⟨atEnd, m, rest, split_at, run⟩ := ih (values := o.1) (by simpa using rest_run)
        exact ⟨atEnd, a :: m, rest, by rw [split_at]; rfl, runAgents_cons.2 ⟨t, runAgent_next.1 next, run⟩⟩
      next => cases h
      next => cases h

/-- Every fair run from an end of a run has that end. -/
theorem FairlyFinishes.of_ended {s : State} (h : s.ended = true) : FairlyFinishes s :=
  ⟨fun _ _ _ start => ⟨0, start ▸ h⟩, fun l _ _ => ⟨[], l, s, rfl, rfl, h⟩⟩

/-- A state that is no end and where no fairness asks for a step has a fair run that never ends: the one that
stops there. -/
theorem not_fairlyFinishes {s : State} (stops : s.stopsFairly = true) (h : s.ended = false) :
    ¬ FairlyFinishes s := by
  intro finishes
  obtain ⟨m, rest, u, split_at, run, atEnd⟩ := finishes.2 [] s ⟨rfl, stops⟩
  obtain ⟨rfl, -⟩ := List.append_eq_nil_iff.1 split_at.symm
  cases run
  rw [h] at atEnd
  cases atEnd

/-! ### The step function -/

/-- A step that answers is one turn of the next agent, on the state moved on. -/
theorem step_next {s t : State} (h : step s = .next t) :
    ∃ a, s.nextAgent = some a ∧ StepsTo a s.advance t := by
  simp only [step, takeTurn] at h
  split at h
  next a next => exact ⟨a, next, runAgent_next.1 h⟩
  next => cases h

/-- The schedule's head is the agent that steps. -/
theorem step_of_sched {a : Agent} {rest : List Agent} {s : State} (h : s.sched = a :: rest) :
    step s = runAgent a s.advance := by
  simp only [step, takeTurn, State.nextAgent, h]

/-- Whether an agent is enabled does not depend on the model's own fields. -/
@[simp] theorem State.advance_enabled (s : State) (a : Agent) : s.advance.enabled a = s.enabled a := by
  cases a <;> rfl

end Sys2Proof.Machine
end

