-- ==== Sys2Proof/Tests/Slice0.lean ====
section
/-! SUPPORT. The model's own tests: words, bytes and steps against the vectors of 95_test_vectors.md, the
checks of WellFormed, and a concrete state and operands that meet the hypotheses of each obligation. -/

namespace Sys2Proof.Tests

open Sys2Proof Sys2Proof.Machine

/-! ### Encoding: the vectors ENC-1 to ENC-18 of 95_test_vectors.md section 2.1 -/

theorem test_decode_lifecycle :
    decode 0x0000000000000001 = .ok .init ∧ decode 0x0000000000000002 = .ok .deinit ∧
      decode 0x0000000000000003 = .ok .reset ∧ decode 0x0000000000000004 = .ok .suspend ∧
      decode 0x0000000000000005 = .ok .resume := by decide

theorem test_decode_queries :
    decode 0x0000000000000010 = .ok .millis ∧ decode 0x0000000000000011 = .ok .micros := by decide

theorem test_decode_delays :
    decode 0x0000000A00000020 = .ok (.delayMs 10) ∧ decode 0xFFFFFFFF00000021 = .ok (.delayUs 4294967295) ∧
      decode 0x0000000000000020 = .ok (.delayMs 0) := by decide

theorem test_decode_unassigned :
    decode 0x0000000000000000 = .error .unknownOpcode ∧ decode 0x0000000000000006 = .error .unknownOpcode ∧
      decode 0x00000000000000FF = .error .unknownOpcode ∧
      decode 0x0000000000000012 = .error .unknownOpcode := by decide

theorem test_decode_reserved :
    decode 0x0000000000000110 = .error .reservedBits ∧
      decode 0x00000000FF000020 = .error .reservedBits := by decide

theorem test_decode_operand :
    decode 0x0000000100000010 = .error .operandBits ∧
      decode 0x8000000000000011 = .error .operandBits := by decide

/-- `DELAY_MS 3` carried as bytes, 95_test_vectors.md section 2.1. -/
theorem test_bytes_delayMs :
    commandBytes (encode (.delayMs 3)) = [0x20, 0x00, 0x00, 0x00, 0x03, 0x00, 0x00, 0x00] ∧
      decodeBytes [0x20, 0x00, 0x00, 0x00, 0x03, 0x00, 0x00, 0x00, 0xAA] = .ok (.delayMs 3, [0xAA]) := by
  decide

/-- Seven bytes are no command word (20_memory.md rule R38). -/
theorem test_bytes_partial : decodeBytes [0x10, 0, 0, 0, 0, 0, 0] = .error .partialWord := by decide

/-- The table's numbering of the bits, with the operand's bits left out of `nbits` and given in it. -/
theorem test_decodeTableWord :
    decodeTableWord 32 0x21 = some (.delayUs 0) ∧ decodeTableWord 64 0x0000000A00000020 = some (.delayMs 10) ∧
      decodeTableWord 64 0x05 = some .resume ∧ decodeTableWord 32 0x06 = none := by decide

/-! ### WellFormed: an ill-formed term for each check -/

theorem test_wellFormed_ok :
    (fieldsOf 0x0000000000000005).wellFormed = true ∧
      (fieldsOf 0xFFFFFFFF00000021).wellFormed = true := by decide

theorem test_wellFormed_opcode :
    (⟨0x06, 0, 0⟩ : Fields).opcodeKnown = false ∧ (⟨0x06, 0, 0⟩ : Fields).wellFormed = false := by decide

theorem test_wellFormed_reserved :
    (⟨0x20, 0xFF0000, 3⟩ : Fields).reservedZero = false ∧
      (⟨0x20, 0xFF0000, 3⟩ : Fields).wellFormed = false := by decide

theorem test_wellFormed_operand :
    (⟨0x10, 0, 1⟩ : Fields).operandAllowed = false ∧ (⟨0x10, 0, 1⟩ : Fields).wellFormed = false := by decide

theorem test_wellFormed_duration :
    durationInRange 0xFFFFFFFF = true ∧ durationInRange 0x100000000 = false := by decide

/-! ### The assembler (30_encoding.md rule R53; 95_test_vectors.md section 2.1) -/

/-- A line with a comment, and one that is only a comment. -/
theorem test_assemble :
    assemble [['D', 'E', 'L', 'A', 'Y', '_', 'M', 'S', ' ', '3', ' ', ';', 'x'], [';', 'y'],
      ['M', 'I', 'C', 'R', 'O', 'S']] = .ok [0x0000000300000020, 0x0000000000000011] := by decide

/-- `DELAY_US 0x1_0000_0000` is refused: out of range. -/
theorem test_assemble_outOfRange :
    parseLine ['D', 'E', 'L', 'A', 'Y', '_', 'U', 'S', ' ',
      '0', 'x', '1', '_', '0', '0', '0', '0', '_', '0', '0', '0', '0'] = .error .outOfRange := by decide

theorem test_assemble_refusals :
    parseLine ['D', 'E', 'L', 'A', 'Y', '_', 'M', 'S'] = .error .missingDuration ∧
      parseLine ['R', 'E', 'S', 'E', 'T', ' ', '1'] = .error .extraText ∧
      parseLine ['N', 'O', 'P'] = .error .unknownMnemonic := by decide

/-! ### Small states -/

/-- The next state of an outcome. -/
def after (o : Host.Outcome State Fault Refusal) : Option State :=
  match o with
  | .next t => some t
  | .fault _ => none
  | .refused _ => none

/-- Running, every control bit as 10_state.md rule R34 (I-R) says. -/
def running (u : Word) (t : Tick) (f : Bool) (stream : List CommandWord) : State :=
  { State.reset with
    uptime := u, tick := t, pef := f, cfg := true, ie := true, cnten := true, clken := true, irqen := true
    oscen := true, oscrdy := true, lc := .running, stream := stream }

/-- Suspended, every control bit as 10_state.md rule R34 (I-S) says. -/
def suspended (u : Word) (t : Tick) (f : Bool) (stream : List CommandWord) : State :=
  { running u t f stream with cnten := false, lc := .suspended }

/-- Uninitialized, with a counter that a power-on draw left. -/
def down (u : Word) (stream : List CommandWord) : State := { State.reset with uptime := u, stream := stream }

/-- Waiting for the oscillator in `INIT`, the only command of its stream. -/
def waitingOsc (ready : Bool) : State :=
  { State.reset with oscen := true, oscrdy := ready, ms := .waitOsc, stream := [encode .init] }

/-- Waiting in `DELAY_MS d`. -/
def waitingMs (u start d : Word) : State :=
  { running u 0 false [encode (.delayMs d), encode .millis] with ms := .waitMs start d }

/-- Waiting in `DELAY_US d`. -/
def waitingUs (u : Word) (t : Tick) (start d : Word) : State :=
  { running u t false [encode (.delayUs d)] with ms := .waitUs start d }

/-- A power-on draw with the oscillator ready or not, and with arbitrary other draws. -/
def draw (ready : Bool) : PowerOn := ⟨77, 4000, true, false, false, true, true, false, ready⟩

theorem running_inv (u : Word) (t : Tick) (f : Bool) (stream : List CommandWord) : (running u t f stream).Inv := by
  constructor <;> simp [running, State.reset, State.counting]

theorem suspended_inv (u : Word) (t : Tick) (f : Bool) (stream : List CommandWord) :
    (suspended u t f stream).Inv := by
  constructor <;> simp [suspended, running, State.reset, State.counting]

theorem down_inv (u : Word) (stream : List CommandWord) : (down u stream).Inv := by
  constructor <;> simp [down, State.reset, State.counting]

theorem waitingOsc_inv (ready : Bool) : (waitingOsc ready).Inv := by
  constructor <;> simp [waitingOsc, State.reset, State.counting]

theorem waitingMs_inv (u start d : Word) : (waitingMs u start d).Inv := by
  constructor <;> simp [waitingMs, running, State.reset, State.counting]

/-! ### Commands, one step each: vectors of 95_test_vectors.md sections 2.3 to 2.6 -/

/-- Q-1, Q-3. -/
theorem test_millis :
    (after (exec .millis (running 500 0 false []))).bind State.res = some 500 ∧
      (after (exec .millis (running 7 0 true []))).bind State.res = some 7 := by decide

/-- Q-4. -/
theorem test_millis_uninitialized :
    after (exec .millis (down 9 [encode .millis])) = some { down 9 [encode .millis] with fault := 0x02 } := by
  decide

/-- Q-7, Q-9, Q-11. -/
theorem test_micros :
    (after (exec .micros (running 500 3 true []))).bind State.res = some 501003 ∧
      (after (exec .micros (running 4294967 295 false []))).bind State.res = some 4294967295 ∧
      (after (exec .micros (suspended 4294968 0 false []))).bind State.res = some 704 := by decide

/-- Q-10, Q-12, Q-13, Q-14: the wraps. -/
theorem test_micros_wraps :
    (after (exec .micros (running 4294967 296 false []))).bind State.res = some 0 ∧
      (after (exec .micros (running 0xFFFFFFFF 999 false []))).bind State.res = some 0xFFFFFFFF ∧
      (after (exec .micros (running 0xFFFFFFFF 0 true []))).bind State.res = some 0 ∧
      (after (exec .micros (running 0xFFFFFFFF 999 true []))).bind State.res = some 999 := by decide

/-- DL-1, DL-3, DL-4. -/
theorem test_delayMs :
    after (exec (.delayMs 0) (running 5 0 false [])) = some { running 5 0 false [] with cp := 1 } ∧
      after (exec (.delayMs 0) (suspended 5 0 false [])) = some { suspended 5 0 false [] with cp := 1 } ∧
      (after (exec (.delayMs 0) (down 5 []))).map State.fault = some 0x02 := by decide

/-- DL-5: the polls at the differences 2 (hold) and 3 (complete). -/
theorem test_delayMs_poll :
    after (agentStep .main (waitingMs 0 0xFFFFFFFE 3)) = some (waitingMs 0 0xFFFFFFFE 3) ∧
      (after (agentStep .main (waitingMs 1 0xFFFFFFFE 3))).map State.cp = some 1 := by decide

/-- DL-7 and DL-11: where the wait starts. -/
theorem test_delayUs :
    (after (exec (.delayUs 0x200) (running 4294967 40 false []))).map State.ms = some (.waitUs 0xFFFFFF00 0x200) ∧
      (after (exec (.delayUs 10) (running 7 2 true []))).map State.ms = some (.waitUs 8002 10) := by decide

/-- DL-7: the polls at the differences 0x1FF (hold) and 0x200 (complete). -/
theorem test_delayUs_poll :
    (after (agentStep .main (waitingUs 4294967 551 0xFFFFFF00 0x200))).map State.cp = some 0 ∧
      (after (agentStep .main (waitingUs 4294967 552 0xFFFFFF00 0x200))).map State.cp = some 1 := by decide

/-- LC-1, and LC-3 with a pending period. -/
theorem test_init :
    (after (exec .init (State.powerOn (draw true) [encode .init]))) =
        some { running 0 0 false [encode .init] with cp := 1 } ∧
      after (exec .init (running 500 250 true [])) = some { running 0 0 false [] with cp := 1 } := by decide

/-- LC-2, its first step: the other control bits are as the draw left them. -/
theorem test_init_waits :
    after (exec .init (State.powerOn (draw false) [encode .init])) =
      some { waitingOsc false with ie := true, cnten := true } := by decide

/-- LC-2, the two polls. -/
theorem test_init_poll :
    after (agentStep .main (waitingOsc false)) = some (waitingOsc false) ∧
      after (agentStep .main (waitingOsc true)) = some { running 0 0 false [encode .init] with cp := 1 } := by decide

/-- LC-12, LC-14. -/
theorem test_deinit :
    after (exec .deinit (running 7 0 true [])) =
        some { running 0 0 false [] with clken := false, irqen := false, lc := .uninitialized, cp := 1 } ∧
      (after (exec .deinit (suspended 7 5 false []))).map State.cnten = some false := by decide

/-- LC-4, LC-5, LC-6. -/
theorem test_reset :
    after (exec .reset (running 500 250 true [])) = some { running 0 0 false [] with cp := 1 } ∧
      after (exec .reset (suspended 500 250 false [])) = some { suspended 0 0 false [] with cp := 1 } ∧
      after (exec .reset (down 9 [])) = some { down 0 [] with cp := 1 } := by decide

/-- LC-7. -/
theorem test_suspend :
    after (exec .suspend (running 500 250 false [])) = some { suspended 500 250 false [] with cp := 1 } := by
  decide

/-- LC-8. -/
theorem test_suspend_illegal :
    (after (exec .suspend (suspended 1 2 false []))).map State.fault = some 0x03 ∧
      (after (exec .suspend (down 1 []))).map State.fault = some 0x03 := by decide

/-- LC-10. -/
theorem test_resume :
    after (exec .resume (suspended 500 250 false [])) = some { running 500 250 false [] with cp := 1 } := by
  decide

/-- LC-11. -/
theorem test_resume_illegal :
    (after (exec .resume (running 1 2 false []))).map State.fault = some 0x03 ∧
      (after (exec .resume (down 1 []))).map State.fault = some 0x03 := by decide

/-- F-1: the zero word at `CP = 1`; F-3: the encoding is checked before the lifecycle. -/
theorem test_illegal_command :
    after (agentStep .main { running 3 999 false [encode .init, 0] with cp := 1 }) =
        some { running 3 999 false [encode .init, 0] with cp := 1, fault := 0x01 } ∧
      (after (agentStep .main (suspended 3 0 false [0x0000000100000004]))).map State.fault = some 0x01 := by
  decide

/-- F-2: after the fault the TIMER and the HANDLER go on and MAIN does not. -/
theorem test_faulted_goes_on :
    runAgents [.timer, .handler] { running 3 999 false [0] with fault := 0x01 } =
        some { running 4 0 false [0] with fault := 0x01 } ∧
      ({ running 3 999 false [0] with fault := 0x01 } : State).enabled .main = false := by decide

/-! ### The other agents: vectors TH-1 to TH-14 of 95_test_vectors.md section 2.2 -/

/-- TH-2, TH-3, TH-4. -/
theorem test_timer :
    runAgents [.timer] (running 5 998 false []) = some (running 5 999 false []) ∧
      runAgents [.timer] (running 5 999 false []) = some (running 5 0 true []) ∧
      runAgents [.timer] (running 5 999 true []) = some { running 5 0 true [] with lost := 1 } := by decide

/-- TH-5, TH-6. -/
theorem test_timer_disabled :
    (suspended 0 250 false []).enabled .timer = false ∧ (down 0 []).enabled .timer = false := by decide

/-- TH-14: a period of two ticks. -/
theorem test_timer_shortest_period :
    (running 0 0 false []).timerTick 2 = running 0 1 false [] ∧
      ((running 0 0 false []).timerTick 2).timerTick 2 = running 0 0 true [] := by decide

/-- TH-7, TH-8, TH-9, TH-10. -/
theorem test_handler :
    runAgents [.handler] (running 5 0 true []) = some (running 6 0 false []) ∧
      runAgents [.handler] (running 0xFFFFFFFF 0 true []) = some (running 0 0 false []) ∧
      (suspended 0 0 true []).enabled .handler = false ∧ (running 0 0 false []).enabled .handler = false := by
  decide

/-- TH-11, TH-12, TH-13. -/
theorem test_osc :
    runAgents [.osc] (waitingOsc false) = some (waitingOsc true) ∧
      State.reset.enabled .osc = false ∧ (waitingOsc true).enabled .osc = false := by decide

/-- 41_time_query.md rule R73 in its document's example (section 1, item 2): 7999, the rollover, the service. -/
theorem test_composed_over_a_rollover :
    (running 7 999 false []).snapshot = 7999 ∧ (running 7 0 true []).snapshot = 8000 ∧
      (running 8 0 false []).snapshot = 8000 := by decide

/-- An `INIT` that waits, written as LC-2 of 95_test_vectors.md section 2.5, and two ticks after it; its agents. -/
theorem test_schedule :
    runEvents [.command, .poll, .osc, .poll, .tick 2] (State.powerOn (draw false) [encode .init]) =
        some { running 0 2 false [encode .init] with cp := 1 } ∧
      scheduleOf [.command, .poll, .osc, .poll, .tick 2] (State.powerOn (draw false) [encode .init]) =
        some [.main, .main, .osc, .main, .timer, .timer] := by decide

/-- No run (30_encoding.md rule R55): a poll of an idle MAIN, a command in a wait, a disabled HANDLER. -/
theorem test_schedule_no_run :
    runEvents [.poll] (running 7 0 false [encode .millis]) = none ∧ runEvents [.command] (waitingOsc false) = none ∧
      scheduleOf [.tick 1, .irq] (running 7 0 false []) = none := by decide

/-- A query's value is observed and a lifecycle command's step is not; the observed state is the one at the
end, whatever agents step after it (70_reset_and_hazards.md rule R119). -/
theorem test_observe :
    (observe [.main, .main] (running 7 0 false [encode .millis, encode .reset])).map (·.1) = some [7] ∧
      (observe [.main] (running 7 0 false [encode .millis])).map (·.2.ended) = some true ∧
      (observe [.main, .timer] (running 7 0 false [encode .millis])).map (·.2.tick) = some 0 := by decide

/-- A run that has not ended, that faults, or that waits has no observation (70_reset_and_hazards.md rule R119). -/
theorem test_observe_no_end :
    observe [.main] (running 7 0 false [encode .millis, encode .millis]) = none ∧
      observe [.main] (down 7 [encode .millis]) = none ∧ observe [.main, .main] (waitingOsc false) = none := by
  decide

/-- Fair finite runs (70_reset_and_hazards.md rule R117): one that ends with `SUSPEND`, and one that stops in
program P4's fault; one that leaves the TIMER enabled is not fair. -/
theorem test_fair_finite_run :
    FairFiniteRun [.main] (running 7 0 false [encode .suspend]) { suspended 7 0 false [encode .suspend] with cp := 1 } ∧
      FairFiniteRun [.main] (down 7 [encode .millis]) { down 7 [encode .millis] with fault := 0x02 } ∧
      (running 7 0 false []).stopsFairly = false := ⟨⟨rfl, rfl⟩, ⟨rfl, rfl⟩, rfl⟩

/-- The claim that a run finishes is refuted by a fault. -/
theorem test_fault_never_finishes : ¬ FairlyFinishes { down 7 [encode .millis] with fault := 0x02 } :=
  not_fairlyFinishes rfl rfl

/-- Every fair run over `RESET` alone, issued in Uninitialized with no oscillator, finishes. -/
theorem test_reset_finishes : FairlyFinishes (down 7 [encode .reset]) := by
  have first : ∀ {a : Agent} {t : State}, StepsTo a (down 7 [encode .reset]) t → t.ended = true := by
    intro a t h
    cases a with
    | main => cases h.2; rfl
    | timer => cases h.1
    | handler => cases h.1
    | osc => cases h.1
  refine ⟨fun states agents run start => ⟨1, first (start ▸ run.1 0)⟩, fun l t run => ?_⟩
  cases l with
  | nil => obtain ⟨run, stops⟩ := run; cases run; cases stops
  | cons a rest =>
    obtain ⟨u, step, -⟩ := runAgents_cons.1 run.1
    exact ⟨[a], rest, u, rfl, runAgents_cons.2 ⟨u, step, rfl⟩, first step⟩

/-! ### The step function -/

/-- A placed command is the one the next step runs, from the state after reset. -/
theorem test_placed_command :
    (after (step (State.reset.withFetchWord 32 0x21))).map State.fault = some 0x02 ∧
      (after (step (State.reset.withFetchWord 64 0x01))).map State.ms = some .waitOsc ∧
      (after (step (State.reset.withFetchWord 64 0x03))).map State.cp = some 1 := by decide

/-- With one agent enabled and none named, that agent steps. -/
theorem test_only_choice : (after (step (running 5 998 false []))).map State.tick = some 999 := by decide

/-! ### Witnesses: the hypotheses of the obligations, met by concrete states and operands -/

theorem test_witness_inv_step :
    (running 5 999 false []).Inv ∧
      step { running 5 999 false [] with sched := [.timer] } = .next { running 5 0 true [] with turn := 1 } :=
  ⟨running_inv .., rfl⟩

/-- A run from power-on into each of the clauses: waiting for the oscillator, Running, in a delay, Suspended. -/
theorem test_witness_reachable :
    (runAgents [.main] (State.powerOn (draw false) [encode .init])).map State.ms = some .waitOsc ∧
      (runAgents [.main, .osc, .main] (State.powerOn (draw false) [encode .init])).map State.lc = some .running ∧
      (runAgents [.main, .main] (State.powerOn (draw true) [encode .init, encode (.delayMs 1)])).map State.ms =
        some (.waitMs 0 1) ∧
      (runAgents [.main, .main] (State.powerOn (draw true) [encode .init, encode .suspend])).map State.lc =
        some .suspended := by decide

theorem test_witness_table_row :
    opcodeTable[8]? = some { mnemonic := "DELAY_US", pattern := 0x21, mask := 0xFFFFFFFF } ∧
      ({ mnemonic := "DELAY_US", pattern := 0x21, mask := 0xFFFFFFFF } : OpcodeRow).admits 0xFFFFFFFF00000021 = true ∧
      (opcodeTable.all fun r => !r.admits 0x0000000100000010) = true := by decide

theorem test_witness_illegal_word :
    (running 3 0 false [0x0000000100000010]).fault = 0 ∧ (running 3 0 false [0x0000000100000010]).ms = .idle ∧
      (running 3 0 false [0x0000000100000010]).fetch = some 0x0000000100000010 ∧
      decode 0x0000000100000010 = .error .operandBits := by decide

/-- The lowest and the highest byte of a word and of a result. -/
theorem test_witness_bytes :
    (commandBytes 0x8877665544332211)[0]? = some 0x11 ∧ (commandBytes 0x8877665544332211)[7]? = some 0x88 ∧
      (resultBytes 0x44332211)[0]? = some 0x11 ∧ (resultBytes 0x44332211)[3]? = some 0x44 := by decide

/-- The largest duration in range and the least one out of range; the highest digit of each base, in both
cases; a mnemonic without a duration; a program's lines, one of them without a command; a refused line. -/
theorem test_witness_assembler :
    literal ['4', '2', '9', '4', '9', '6', '7', '2', '9', '5'] = some 4294967295 ∧
      literal ['0', 'x', '1', '_', '0', '0', '0', '0', '_', '0', '0', '0', '0'] = some 4294967296 ∧
      ['9', '0'] = [9, 0].map Nat.digitChar ∧ literal ['9', '0'] = some 90 ∧
      ['f', '0'] = [15, 0].map Nat.digitChar ∧ literal ['0', 'x', 'f', '0'] = some 240 ∧
      literal ['0', 'x', 'F', '0'] = some 240 ∧
      bareMnemonic ['I', 'N', 'I', 'T'] = some .init ∧
      parseLine ['M', 'I', 'L', 'L', 'I', 'S'] = .ok (some .millis) ∧ parseLine [';', 'x'] = .ok none ∧
      parseLine ['M', 'I', 'L', 'L'] = .error .unknownMnemonic := by decide

theorem test_witness_fetched_command :
    ({ running 3 0 false [encode .millis] with sched := [.main] } : State).sched = [.main] ∧
      (running 3 0 false [encode .millis]).fault = 0 ∧ (running 3 0 false [encode .millis]).ms = .idle ∧
      (running 3 0 false [encode .millis]).fetch = some (encode .millis) ∧
      decode (encode .millis) = .ok .millis := by decide

/-- A step, and each agent enabled somewhere. -/
theorem test_witness_enabled_agents :
    (running 3 0 true [encode .millis]).enabled .main = true ∧
      (running 3 0 true [encode .millis]).enabled .timer = true ∧
      (running 3 0 true [encode .millis]).enabled .handler = true ∧
      (waitingOsc false).enabled .osc = true ∧
      (step { waitingOsc false with sched := [.osc] } = .next { waitingOsc true with turn := 1 }) :=
  ⟨rfl, rfl, rfl, rfl, rfl⟩

/-- A named agent that is not enabled; no agent enabled; an enabled agent and none named. -/
theorem test_witness_stops :
    (down 0 []).enabled .timer = false ∧ step { down 0 [] with sched := [.timer] } = .refused (.notEnabled .timer) ∧
      (∀ a, (down 0 []).enabled a = false) ∧ (down 0 []).sched = [] ∧
      (waitingOsc false).sched = [] ∧ (waitingOsc false).enabled .osc = true :=
  ⟨rfl, rfl, fun a => by cases a <;> rfl, rfl, rfl, rfl⟩

theorem test_witness_schedule_runs :
    runAgents [.timer, .handler] (running 3 999 false []) = some (running 4 0 false []) ∧
      Host.Core.run Sys2Proof.core 2 { running 3 999 false [] with sched := [.timer, .handler] } =
        .next { running 4 0 false [] with turn := 2 } := ⟨by decide, rfl⟩

/-- Both sides of the guard of the queries and the delays, and a duration 0 and not 0. -/
theorem test_witness_lifecycles :
    (running 0 0 false []).lc ≠ .uninitialized ∧ (suspended 0 0 false []).lc ≠ .uninitialized ∧
      (down 0 []).lc = .uninitialized ∧ (0xFFFFFFFF : Word) ≠ 0 ∧ (running 0 0 false []).lc ≠ .suspended ∧
      (suspended 0 0 false []).lc ≠ .running := by decide

/-- The polls' clauses at their boundaries: the difference `d` and the difference `d − 1`, with the invariant. -/
theorem test_witness_polls :
    (waitingMs 1 0xFFFFFFFE 3).ms = .waitMs 0xFFFFFFFE 3 ∧
      (3 : Word).toNat ≤ ((waitingMs 1 0xFFFFFFFE 3).uptime - 0xFFFFFFFE).toNat ∧
      ¬ (3 : Word).toNat ≤ ((waitingMs 0 0xFFFFFFFE 3).uptime - 0xFFFFFFFE).toNat ∧
      (waitingUs 4294967 552 0xFFFFFF00 0x200).ms = .waitUs 0xFFFFFF00 0x200 ∧
      (0x200 : Word).toNat ≤ ((waitingUs 4294967 552 0xFFFFFF00 0x200).snapshot - 0xFFFFFF00).toNat ∧
      ¬ (0x200 : Word).toNat ≤ ((waitingUs 4294967 551 0xFFFFFF00 0x200).snapshot - 0xFFFFFF00).toNat ∧
      (waitingMs 1 0xFFFFFFFE 3).Inv :=
  ⟨rfl, by decide, by decide, rfl, by decide, by decide, waitingMs_inv ..⟩

/-- `INIT` with and without the oscillator, and its wait. -/
theorem test_witness_init :
    (State.powerOn (draw true) []).oscrdy = true ∧ (State.powerOn (draw false) []).oscrdy = false ∧
      (running 1 0 false []).Inv ∧ (running 1 0 false []).lc ≠ .uninitialized ∧
      (waitingOsc true).ms = .waitOsc ∧ (waitingOsc true).oscrdy = true ∧ (waitingOsc false).oscrdy = false ∧
      (waitingOsc false).Inv ∧ StepsTo .osc (waitingOsc false) (waitingOsc true) ∧
      StepsTo .main (waitingOsc false) (waitingOsc false) :=
  ⟨rfl, rfl, running_inv .., by decide, rfl, rfl, rfl, waitingOsc_inv _, ⟨rfl, rfl⟩, ⟨rfl, rfl⟩⟩

/-- `SUSPEND` and `RESUME` answer, and the state `RESUME` leaves has its pending period. -/
theorem test_witness_transitions :
    exec .suspend (running 7 3 true []) = .next { suspended 7 3 true [] with cp := 1 } ∧
      exec .resume (suspended 7 3 true []) = .next { running 7 3 true [] with cp := 1 } ∧
      (suspended 7 3 true []).Inv ∧ (suspended 7 3 true []).pef = true :=
  ⟨rfl, rfl, suspended_inv .., rfl⟩

/-- The lifecycle table's columns, each with the invariant. -/
theorem test_witness_lifecycle_table :
    (down 9 []).Inv ∧ (down 9 []).lc = .uninitialized ∧ (down 9 []).oscrdy = false ∧
      (running 9 0 true []).Inv ∧ (running 9 0 true []).lc = .running ∧
      (suspended 9 0 true []).Inv ∧ (suspended 9 0 true []).lc = .suspended :=
  ⟨down_inv .., rfl, rfl, running_inv .., rfl, suspended_inv .., rfl⟩

/-- The TIMER's two cases where they meet, in the period and with a draw outside it. -/
theorem test_witness_timer :
    (running 5 999 true []).tick.toNat = Config.period - 1 ∧ (running 5 998 true []).tick.toNat ≠ Config.period - 1 ∧
      (running 5 1000 true []).tick.toNat ≠ Config.period - 1 ∧ (running 5 999 true []).tickInPeriod ∧
      (running 5 0 true []).tickInPeriod ∧
      agentStep .timer (running 5 999 true []) = .next { running 5 0 true [] with lost := 1 } ∧
      (running 0xFFFFFFFF 0 true []).uptime = 0xFFFFFFFF := by
  refine ⟨by decide, by decide, by decide, ?_, ?_, rfl, rfl⟩
  · unfold State.tickInPeriod; decide
  · unfold State.tickInPeriod; decide

/-- The frames' hypotheses: each command and each agent's step answers. -/
theorem test_witness_frames :
    (after (exec .millis (running 1 2 true []))).isSome = true ∧ (after (exec .micros (down 1 []))).isSome = true ∧
      (after (exec (.delayMs 3) (running 1 2 true []))).isSome = true ∧
      (after (exec (.delayUs 3) (suspended 1 2 true []))).isSome = true ∧
      (after (exec .reset (down 1 []))).isSome = true ∧ (after (exec .init (waitingOsc false))).isSome = true ∧
      (after (exec .deinit (running 1 2 true []))).isSome = true ∧
      (after (exec .suspend (down 1 []))).map State.fault = some 0x03 ∧
      (after (agentStep .timer (running 1 2 true []))).isSome = true ∧
      (after (agentStep .handler (running 1 2 true []))).isSome = true ∧
      (after (agentStep .osc (waitingOsc false))).isSome = true := by decide

/-- A step of MAIN before the first reset action that performs none, at a tick no period has. -/
theorem test_witness_tick_draw :
    (State.powerOn (draw true) [encode .millis]).Inv ∧
      StepsTo .main (State.powerOn (draw true) [encode .millis])
        { State.powerOn (draw true) [encode .millis] with fault := 0x02 } ∧
      (State.powerOn (draw true) [encode .millis]).atResetAction = false ∧
      (State.powerOn (draw true) [encode .millis]).tick = 4000 := by
  refine ⟨?_, ⟨rfl, rfl⟩, by decide, rfl⟩
  constructor <;> simp [State.powerOn, draw, State.counting]

/-- A step after which `CMF` is set, one that loses a period, one that performs the reset action, one that
raises `PEF`, and one that serves it. -/
theorem test_witness_writers :
    StepsTo .timer { running 5 3 false [] with cmf := true } { running 5 4 false [] with cmf := true } ∧
      StepsTo .timer (running 5 999 true []) { running 5 0 true [] with lost := 1 } ∧
      StepsTo .main (running 5 3 true [encode .reset]) { running 0 0 false [encode .reset] with cp := 1 } ∧
      (running 5 3 true [encode .reset]).atResetAction = true ∧
      StepsTo .timer (running 5 999 false []) (running 5 0 true []) ∧
      StepsTo .handler (running 0xFFFFFFFF 0 true []) (running 0 0 false []) ∧
      StepsTo .osc (waitingOsc false) (waitingOsc true) :=
  ⟨⟨rfl, rfl⟩, ⟨rfl, rfl⟩, ⟨rfl, rfl⟩, by decide, ⟨rfl, rfl⟩, ⟨rfl, rfl⟩, ⟨rfl, rfl⟩⟩

/-- `RES` unwritten and written, and a step that writes it. -/
theorem test_witness_res :
    StepsTo .main (running 5 3 true [encode .millis])
        { running 5 3 true [encode .millis] with res := some 5, cp := 1 } ∧
      (running 5 3 true []).res = none ∧ (running 5 3 true []).readRes = .fault .resUnwritten ∧
      (running 5 3 true [encode .millis]).cp ≤ (running 5 3 true [encode .millis]).stream.length ∧
      (running 5 3 true []).cp = (running 5 3 true []).stream.length :=
  ⟨⟨rfl, rfl⟩, rfl, rfl, by decide, rfl⟩

/-- MAIN's step in each of the three faults and in a wait, and a faulted state's run. -/
theorem test_witness_faults :
    StepsTo .main (running 5 3 true [0]) { running 5 3 true [0] with fault := 0x01 } ∧
      StepsTo .main (down 5 [encode .micros]) { down 5 [encode .micros] with fault := 0x02 } ∧
      StepsTo .main (running 5 3 true [encode .resume]) { running 5 3 true [encode .resume] with fault := 0x03 } ∧
      StepsTo .main (waitingMs 0 0 5) (waitingMs 0 0 5) ∧ (waitingMs 0 0 5).ms ≠ .idle ∧
      runAgents [.timer, .handler] { running 3 999 false [0] with fault := 0x01 } =
        some { running 4 0 false [0] with fault := 0x01 } :=
  ⟨⟨rfl, rfl⟩, ⟨rfl, rfl⟩, ⟨rfl, rfl⟩, ⟨rfl, rfl⟩, by decide, by decide⟩

/-- The last composed value before the wrap of its 32 bits, and a pending period. -/
theorem test_witness_queries_agree :
    (running 4294967 295 false []).tickInPeriod ∧ (running 4294967 295 false []).pef = false ∧
      (running 4294967 295 false []).uptime.toNat * Config.period + (running 4294967 295 false []).tick.toNat
        < 2 ^ 32 ∧
      (running 7 3 true []).pef = true ∧ (running 7 3 true []).lc ≠ .uninitialized := by
  refine ⟨?_, rfl, by decide, rfl, by decide⟩
  unfold State.tickInPeriod; decide

/-- A run with a query, ticks, a rollover and its service, without a reset action or a lost period. -/
theorem test_witness_run_of_ticks :
    (running 7 999 false [encode .millis]).tickInPeriod ∧
      runAgents [.timer, .main, .handler, .timer] (running 7 999 false [encode .millis]) =
        some { running 8 1 false [encode .millis] with res := some 7, cp := 1 } ∧
      ResetFree [.timer, .main, .handler, .timer] (running 7 999 false [encode .millis]) ∧
      NoPeriodLost (running 7 999 false [encode .millis])
        { running 8 1 false [encode .millis] with res := some 7, cp := 1 } := by
  refine ⟨?_, by decide, ⟨by decide, by decide, by decide, by decide, trivial⟩, rfl⟩
  unfold State.tickInPeriod; decide

/-- The last tick before the wrap of `UPTIME`. -/
theorem test_witness_counter_wrap :
    (running 0xFFFFFFFF 999 false []).uptime = 0xFFFFFFFF ∧
      (running 0xFFFFFFFF 999 false []).tick.toNat = Config.period - 1 ∧
      (running 0xFFFFFFFF 999 false []).pef = false := by decide

/-- The start of a period, with its boundaries as a number of ticks, and a period under way. -/
theorem test_witness_period :
    (running 7 0 false []).counting = true ∧ (running 7 0 false []).tick = 0 ∧ 999 < Config.period ∧
      (running 7 0 false []).pef = false ∧ (running 7 0 false []).cmf = false ∧
      (running 7 0 false []).lc = .running ∧ (running 7 0 false []).Inv ∧
      (running 7 999 true []).counting = true ∧ (running 7 999 true []).tickInPeriod := by
  refine ⟨rfl, rfl, by decide, rfl, rfl, rfl, running_inv .., rfl, ?_⟩
  unfold State.tickInPeriod; decide

/-- Suspended, with two queries and no other command left: a run of both, and a step that ends a suspension. -/
theorem test_witness_suspended :
    (suspended 7 3 true [encode .micros, encode .millis]).Inv ∧
      (suspended 7 3 true [encode .micros, encode .millis]).lc = .suspended ∧
      runAgents [.main, .main] (suspended 7 3 true [encode .micros, encode .millis]) =
        some { suspended 7 3 true [encode .micros, encode .millis] with res := some 7, cp := 2 } ∧
      ((suspended 7 3 true [encode .micros, encode .millis]).stream.drop 0).all
        (fun w => w = encode .micros || w = encode .millis) = true ∧
      (suspended 7 3 true [encode .micros]).atResetAction = false ∧
      StepsTo .main (suspended 7 3 true [encode .resume]) { running 7 3 true [encode .resume] with cp := 1 } :=
  ⟨suspended_inv .., rfl, by decide, by decide, by decide, rfl, rfl⟩

/-- No word of that stream is one of the four commands that would end the freeze. -/
theorem test_witness_suspended_stream (i : Instr) (h : encode i ∈ [encode .micros, encode .millis]) :
    i ≠ .init ∧ i ≠ .deinit ∧ i ≠ .reset ∧ i ≠ .resume := by
  refine ⟨?_, ?_, ?_, ?_⟩ <;> (rintro rfl; revert h; decide)

/-- `DELAY_MS 1` with the rollover and its service before the poll. -/
theorem test_witness_delayMs_run :
    exec (.delayMs 1) (running 7 999 false [encode (.delayMs 1)]) =
        .next { running 7 999 false [encode (.delayMs 1)] with ms := .waitMs 7 1 } ∧
      runAgents [.main, .timer, .handler] { running 7 999 false [encode (.delayMs 1)] with ms := .waitMs 7 1 } =
        some { running 8 0 false [encode (.delayMs 1)] with ms := .waitMs 7 1 } ∧
      StepsTo .main { running 8 0 false [encode (.delayMs 1)] with ms := .waitMs 7 1 }
        { running 8 0 false [encode (.delayMs 1)] with cp := 1 } :=
  ⟨rfl, by decide, rfl, rfl⟩

/-- `DELAY_US 2` with two ticks over a rollover before the poll. -/
theorem test_witness_delayUs_run :
    exec (.delayUs 2) (running 7 999 false [encode (.delayUs 2)]) =
        .next { running 7 999 false [encode (.delayUs 2)] with ms := .waitUs 7999 2 } ∧
      runAgents [.timer, .main, .timer] { running 7 999 false [encode (.delayUs 2)] with ms := .waitUs 7999 2 } =
        some { running 7 1 true [encode (.delayUs 2)] with ms := .waitUs 7999 2 } ∧
      StepsTo .main { running 7 1 true [encode (.delayUs 2)] with ms := .waitUs 7999 2 }
        { running 7 1 true [encode (.delayUs 2)] with cp := 1 } ∧
      (running 7 999 false [encode (.delayUs 2)]).tickInPeriod := by
  refine ⟨rfl, by decide, ⟨rfl, rfl⟩, ?_⟩
  unfold State.tickInPeriod; decide

/-- A delay issued while Suspended, and a run of two polls over it. -/
theorem test_witness_delay_suspended :
    (suspended 7 3 true [encode (.delayMs 5)]).Inv ∧ (suspended 7 3 true [encode (.delayMs 5)]).lc = .suspended ∧
      (5 : Word) ≠ 0 ∧
      runAgents [.main, .main] { suspended 7 3 true [encode (.delayMs 5)] with ms := .waitMs 7 5 } =
        some { suspended 7 3 true [encode (.delayMs 5)] with ms := .waitMs 7 5 } :=
  ⟨suspended_inv .., rfl, by decide, by decide⟩

/-- `INIT` completes in its first step and out of its wait. -/
theorem test_witness_init_completes :
    StepsTo .main (waitingOsc true) { running 0 0 false [encode .init] with cp := 1 } ∧
      (waitingOsc true).Inv ∧ (waitingOsc true).ms = .waitOsc ∧
      StepsTo .main (running 9 9 true [encode .init]) { running 0 0 false [encode .init] with cp := 1 } ∧
      (running 9 9 true [encode .init]).Inv ∧ (running 9 9 true [encode .init]).ms = .idle ∧
      (running 9 9 true [encode .init]).fetch = some (encode .init) :=
  ⟨⟨rfl, rfl⟩, waitingOsc_inv _, rfl, ⟨rfl, rfl⟩, running_inv .., rfl, rfl⟩

/-- An `INIT` that waits, and a run over it without the oscillator. -/
theorem test_witness_init_hangs :
    (waitingOsc false).Inv ∧ (waitingOsc false).ms = .waitOsc ∧ (waitingOsc false).oscrdy = false ∧
      .osc ∉ [Agent.main, .main] ∧ runAgents [.main, .main] (waitingOsc false) = some (waitingOsc false) :=
  ⟨waitingOsc_inv _, rfl, rfl, by decide, by decide⟩

/-- The states of a run of the TIMER alone. -/
def ticksFrom (s : State) : Nat → State
  | 0 => s
  | n + 1 => (ticksFrom s n).timerStep

/-- The states of an infinite run that goes through the listed states and then, from `s`, through ticks. -/
def statesOf (s : State) : List (State × Agent) → Nat → State
  | [], n => ticksFrom s n
  | p :: _, 0 => p.1
  | _ :: rest, n + 1 => statesOf s rest n

/-- The agents of that run. -/
def agentsOf : List (State × Agent) → Nat → Agent
  | [], _ => .timer
  | p :: _, 0 => p.2
  | _ :: rest, n + 1 => agentsOf rest n

theorem ticksFrom_enabled (s : State) (a : Agent) (h : a = .main ∨ a = .timer) (n : Nat) :
    (ticksFrom s n).enabled a = s.enabled a := by
  induction n with
  | zero => rfl
  | succ n ih =>
    rw [← ih]
    simp only [ticksFrom, State.timerStep, State.timerTick]
    rcases h with rfl | rfl <;> split <;> rfl

theorem statesOf_end (s : State) (l : List (State × Agent)) (n : Nat) :
    statesOf s l (n + l.length) = ticksFrom s n ∧ agentsOf l (n + l.length) = .timer := by
  induction l with
  | nil => exact ⟨rfl, rfl⟩
  | cons p l ih => exact ih

theorem statesOf_nil_run {s : State} (h : s.enabled .timer = true) : IsRun (statesOf s []) (agentsOf []) :=
  fun n => ⟨(ticksFrom_enabled s _ (.inr rfl) n).trans h, rfl⟩

theorem statesOf_cons_run {s : State} {p : State × Agent} {l : List (State × Agent)}
    (h : StepsTo p.2 p.1 (statesOf s l 0)) (hl : IsRun (statesOf s l) (agentsOf l)) :
    IsRun (statesOf s (p :: l)) (agentsOf (p :: l)) := by
  intro n
  cases n with
  | zero => exact h
  | succ n => exact hl n

/-- Such a run is fair to the TIMER, and to MAIN where MAIN has no step at its end. -/
theorem statesOf_fair {s : State} (h : s.enabled .main = false) (l : List (State × Agent)) :
    WeaklyFair .main (statesOf s l) (agentsOf l) ∧ WeaklyFair .timer (statesOf s l) (agentsOf l) := by
  refine ⟨fun n hn => ?_, fun n _ => ⟨n + l.length, by omega, (statesOf_end s l n).2⟩⟩
  have := hn (n + l.length) (by omega)
  rw [(statesOf_end s l n).1, ticksFrom_enabled s _ (.inl rfl), h] at this
  cases this

/-- A wait of such a run ends with its listed states. -/
theorem statesOf_waits {s : State} {l : List (State × Agent)} (h : s.ms ≠ (statesOf s l 0).ms) {n : Nat}
    (hw : WaitsUntil (statesOf s l) n) : n < l.length := by
  by_contra hc
  refine h (Eq.trans ?_ (hw l.length (by omega)))
  rw [← Nat.zero_add l.length, (statesOf_end s l 0).1]
  rfl

/-- No more steps of one agent than steps. -/
theorem count_between (agents : Nat → Agent) (a : Agent) (m n : Nat) :
    (agentsBetween agents m n).count a ≤ n - m :=
  List.count_le_length.trans (by simp [agentsBetween])

/-- `INIT` waiting for an oscillator that becomes ready by a step of its agent, and already ready. -/
def initRun : List (State × Agent) :=
  [(waitingOsc false, .main), (waitingOsc false, .osc), (waitingOsc true, .main)]

theorem test_witness_fair_init :
    IsRun (statesOf { running 0 0 false [encode .init] with cp := 1 } initRun) (agentsOf initRun) ∧
      (waitingOsc false).Inv ∧ (waitingOsc false).ms = .waitOsc ∧ agentsOf initRun 1 = .osc ∧
      IsRun (statesOf { running 0 0 false [encode .init] with cp := 1 } (initRun.drop 2)) (agentsOf (initRun.drop 2)) ∧
      (waitingOsc true).Inv ∧ (waitingOsc true).ms = .waitOsc ∧ (waitingOsc true).oscrdy = true := by
  have h : IsRun (statesOf { running 0 0 false [encode .init] with cp := 1 } (initRun.drop 2)) (agentsOf (initRun.drop 2)) :=
    statesOf_cons_run ⟨rfl, rfl⟩ (statesOf_nil_run rfl)
  exact ⟨statesOf_cons_run ⟨rfl, rfl⟩ (statesOf_cons_run ⟨rfl, rfl⟩ h), waitingOsc_inv _, rfl, rfl, h,
    waitingOsc_inv _, rfl, rfl⟩

/-- `DELAY_MS 1` just issued one tick before the rollover: the rollover, a poll that holds, the service, and
the poll that completes the delay and the stream. -/
def delayMsRun : List (State × Agent) :=
  [({ running 7 999 false [encode (.delayMs 1)] with ms := .waitMs 7 1 }, .timer),
   ({ running 7 0 true [encode (.delayMs 1)] with ms := .waitMs 7 1 }, .main),
   ({ running 7 0 true [encode (.delayMs 1)] with ms := .waitMs 7 1 }, .handler),
   ({ running 8 0 false [encode (.delayMs 1)] with ms := .waitMs 7 1 }, .main)]

/-- The end of that run's listed states. -/
def delayMsDone : State := { running 8 0 false [encode (.delayMs 1)] with cp := 1 }

theorem test_witness_fair_delayMs :
    IsRun (statesOf delayMsDone delayMsRun) (agentsOf delayMsRun) ∧ (statesOf delayMsDone delayMsRun 0).Inv ∧
      (statesOf delayMsDone delayMsRun 0).ms = .waitMs 7 1 ∧ (statesOf delayMsDone delayMsRun 0).uptime = 7 ∧
      (statesOf delayMsDone delayMsRun 0).lc = .running ∧ (statesOf delayMsDone delayMsRun 0).tickInPeriod ∧
      WeaklyFair .main (statesOf delayMsDone delayMsRun) (agentsOf delayMsRun) ∧
      WeaklyFair .timer (statesOf delayMsDone delayMsRun) (agentsOf delayMsRun) ∧
      NoPeriodLostInWait (statesOf delayMsDone delayMsRun) ∧
      PollsInWindow .handler 1 (statesOf delayMsDone delayMsRun) (agentsOf delayMsRun) ∧
      WaitsUntil (statesOf delayMsDone delayMsRun) 0 := by
  have hw : ∀ {n}, WaitsUntil (statesOf delayMsDone delayMsRun) n → n < 4 := statesOf_waits (by decide)
  refine ⟨?_, ?_, rfl, rfl, rfl, ?_, (statesOf_fair rfl _).1, (statesOf_fair rfl _).2, fun n h => ?_,
    fun m n _ h _ => ?_, fun k hk => by rw [Nat.le_zero.1 hk]⟩
  · exact statesOf_cons_run ⟨rfl, rfl⟩ (statesOf_cons_run ⟨rfl, rfl⟩ (statesOf_cons_run ⟨rfl, rfl⟩
      (statesOf_cons_run ⟨rfl, rfl⟩ (statesOf_nil_run rfl))))
  · constructor <;> simp [statesOf, delayMsRun, running, State.reset, State.counting]
  · unfold State.tickInPeriod; decide
  · have := hw h
    interval_cases n <;> rfl
  · have := hw h
    refine (count_between _ _ m n).trans ?_
    simp only [show (1 : Word).toNat = 1 from rfl]
    omega

/-- `DELAY_US 1` just issued: a poll that holds, a tick over the rollover, and the poll that completes. -/
def delayUsRun : List (State × Agent) :=
  [({ running 7 999 false [encode (.delayUs 1)] with ms := .waitUs 7999 1 }, .main),
   ({ running 7 999 false [encode (.delayUs 1)] with ms := .waitUs 7999 1 }, .timer),
   ({ running 7 0 true [encode (.delayUs 1)] with ms := .waitUs 7999 1 }, .main)]

/-- The end of that run's listed states. -/
def delayUsDone : State := { running 7 0 true [encode (.delayUs 1)] with cp := 1 }

theorem test_witness_fair_delayUs :
    IsRun (statesOf delayUsDone delayUsRun) (agentsOf delayUsRun) ∧ (statesOf delayUsDone delayUsRun 0).Inv ∧
      (statesOf delayUsDone delayUsRun 0).ms = .waitUs (statesOf delayUsDone delayUsRun 0).snapshot 1 ∧
      (statesOf delayUsDone delayUsRun 0).lc = .running ∧ (statesOf delayUsDone delayUsRun 0).tickInPeriod ∧
      WeaklyFair .main (statesOf delayUsDone delayUsRun) (agentsOf delayUsRun) ∧
      WeaklyFair .timer (statesOf delayUsDone delayUsRun) (agentsOf delayUsRun) ∧
      NoPeriodLostInWait (statesOf delayUsDone delayUsRun) ∧
      PollsInWindow .timer 1 (statesOf delayUsDone delayUsRun) (agentsOf delayUsRun) := by
  have hw : ∀ {n}, WaitsUntil (statesOf delayUsDone delayUsRun) n → n < 3 := statesOf_waits (by decide)
  refine ⟨?_, ?_, by decide, rfl, ?_, (statesOf_fair rfl _).1, (statesOf_fair rfl _).2, fun n h => ?_,
    fun m n _ h _ => ?_⟩
  · exact statesOf_cons_run ⟨rfl, rfl⟩ (statesOf_cons_run ⟨rfl, rfl⟩ (statesOf_cons_run ⟨rfl, rfl⟩
      (statesOf_nil_run rfl)))
  · constructor <;> simp [statesOf, delayUsRun, running, State.reset, State.counting]
  · unfold State.tickInPeriod; decide
  · have := hw h
    interval_cases n <;> rfl
  · have := hw h
    refine (count_between _ _ m n).trans ?_
    simp only [show (1 : Word).toNat = 1 from rfl]
    omega

/-- A block and a power-on draw whose oscillator is ready. -/
theorem test_witness_fresh_start : (running 7 3 true []).oscrdy = true ∧ (draw true).oscrdy = true := by decide

end Sys2Proof.Tests
end

/-! # The state's fields over every step

Who writes `CMF`, `LOST`, `UPTIME`, `RES` and `CP` (10_state.md rules R14, R18, R28, R30 and R32). Each answer
is read off the inversion lemma `agentStep_effect`; the lemmas before them say once what a step does to the
timebase and to the command position, and what a fetched word has to do with its command. -/

namespace Sys2Proof

/-! ### A word and its command -/

/-- The fields the decoder accepts are those the encoder lays out (30_encoding.md rules R47 to R51). -/
theorem fields_of_decodeFields {f : Fields} {i : Instr} (h : decodeFields f = .ok i) :
    f = { op := opcodeOf i, rsvd := 0, arg := operandOf i } := by
  obtain ⟨op, rsvd, arg⟩ := f
  simp only [decodeFields] at h
  split at h
  next rsvd_zero =>
    split at h
    next j bare =>
      obtain ⟨op_eq, operand_zero⟩ := bareCommand_some bare
      split at h
      next arg_zero => cases h; simp_all
      next => cases h
    next =>
      split at h
      next j delay =>
        obtain ⟨op_eq, operand_eq⟩ := delayCommand_some delay
        cases h; simp_all
      next => cases h
  next => cases h

/-- A legal word is its command's one encoding (30_encoding.md rule R50). -/
theorem eq_encode_of_decode {w : CommandWord} {i : Instr} (h : decode w = .ok i) : w = encode i := by
  rw [encode, ← fields_of_decodeFields h, wordOf_fieldsOf]

/-- Every command decodes from its own encoding (30_encoding.md rule R50). -/
@[simp] theorem decode_encode (i : Instr) : decode (encode i) = .ok i := by
  rw [decode, encode, fieldsOf_wordOf]
  cases i <;> rfl

/-- No two commands share a word. -/
@[simp] theorem encode_inj {i j : Instr} : encode i = encode j ↔ i = j := by
  refine ⟨fun same => ?_, congrArg encode⟩
  have decoded := congrArg decode same
  simpa using decoded

/-- The commands that perform the reset action (43_lifecycle.md rule R89). -/
def Instr.performsReset : Instr → Bool
  | .init | .deinit | .reset => true
  | .suspend | .resume | .millis | .micros | .delayMs _ | .delayUs _ => false

end Sys2Proof

namespace Sys2Proof.Machine

variable {a : Agent} {s t : State}

/-! ### When an agent has a step, and when MAIN's is a reset action -/

theorem State.enabled_main_iff : s.enabled .main = true ↔ s.fault = 0 ∧ s.cp < s.stream.length := by
  simp [State.enabled, State.mainReady]

theorem State.enabled_handler_iff : s.enabled .handler = true ↔
    s.pef = true ∧ s.ie = true ∧ s.irqen = true ∧ s.clken = true ∧ s.cnten = true := by
  simp [State.enabled, State.irq, and_assoc]

/-- An idle MAIN at a legal word performs the reset action exactly when the word's command does. -/
theorem State.atResetAction_of_fetch {w : CommandWord} {i : Instr} (idle : s.ms = .idle)
    (at_ : s.fetch = some w) (ok : decode w = .ok i) : s.atResetAction = i.performsReset := by
  obtain rfl := eq_encode_of_decode ok
  cases i <;> simp [State.atResetAction, idle, at_, Instr.performsReset]

theorem State.atResetAction_of_illegal {w : CommandWord} {e : Illegal} (at_ : s.fetch = some w)
    (bad : decode w = .error e) : s.atResetAction = false := by
  have not_encoding : ∀ i, w ≠ encode i := by
    rintro i rfl
    simp at bad
  simp [State.atResetAction, at_, not_encoding]

theorem State.atResetAction_of_wait (wait : s.ms ≠ .idle) : s.atResetAction = false := by
  simp [State.atResetAction, wait]

/-! ### The step of an agent from its effect -/

/-- MAIN's fetch of a legal word is the execution of its command (30_encoding.md rule R50). -/
theorem agentStep_main_of_fetch {w : CommandWord} {i : Instr} (idle : s.ms = .idle)
    (at_ : s.fetch = some w) (ok : decode w = .ok i) : agentStep .main s = exec i s := by
  simp [agentStep, mainStep, performWord, idle, at_, ok]

/-- The converse of `agentStep_effect`: every effect is the agent's step. -/
theorem Effect.agentStep_eq (h : Effect s a t) : agentStep a s = .next t := by
  cases h with
  | timerCounts count => simp [agentStep, State.timerStep, State.timerTick, count]
  | timerRolls roll => simp [agentStep, State.timerStep, State.timerTick, roll]
  | handler | osc => rfl
  | illegal w e idle at_ bad => simp [agentStep, mainStep, performWord, idle, at_, bad]
  | undefinedQuery w i idle at_ ok use lc =>
    rw [agentStep_main_of_fetch idle at_ ok]
    obtain rfl | rfl | ⟨d, rfl⟩ | ⟨d, rfl⟩ := use <;>
      simp [exec, execMillis, execMicros, execDelayMs, execDelayUs, guardQuery_eq, lc]
  | illegalTransition w i idle at_ ok use =>
    rw [agentStep_main_of_fetch idle at_ ok]
    obtain ⟨rfl, lc⟩ | ⟨rfl, lc⟩ := use <;> simp [exec, execSuspend, execResume, transition_eq, lc]
  | query w i v idle at_ ok use lc =>
    rw [agentStep_main_of_fetch idle at_ ok]
    obtain ⟨rfl, rfl⟩ | ⟨rfl, rfl⟩ := use <;> simp [exec, execMillis, execMicros, guardQuery_eq, lc]
  | delayOver w i idle at_ ok use lc =>
    rw [agentStep_main_of_fetch idle at_ ok]
    obtain rfl | rfl := use <;>
      simp [exec, execDelayMs, execDelayUs, guardQuery_eq, State.beginDelay_eq, lc]
  | delayMsWaits w d idle at_ ok pos lc | delayUsWaits w d idle at_ ok pos lc =>
    rw [agentStep_main_of_fetch idle at_ ok]
    simp only [exec, execDelayMs, execDelayUs, guardQuery_eq, State.beginDelay_eq, if_neg lc, if_neg pos]
  | reset w idle at_ ok | deinit w idle at_ ok => exact agentStep_main_of_fetch idle at_ ok
  | initStarts w idle at_ ok rdy | initWaits w idle at_ ok rdy =>
    rw [agentStep_main_of_fetch idle at_ ok]
    simp [exec, execInit_eq, rdy]
  | suspend w idle at_ ok lc | resume w idle at_ ok lc =>
    rw [agentStep_main_of_fetch idle at_ ok]
    simp [exec, execSuspend, execResume, transition_eq, lc]
  | oscPollStarts wait rdy | oscPollHolds wait rdy =>
    simp [agentStep, mainStep, State.pollOsc, wait, rdy]
  | msPollOver start d wait met | msPollHolds start d wait met
  | usPollOver start d wait met | usPollHolds start d wait met =>
    simp [agentStep, mainStep, State.pollDelay, wait, met]

/-! ### What a step does to the timebase -/

/-- The timebase is as the reset action leaves it (43_lifecycle.md rule R89). -/
def State.timebaseZero (t : State) : Prop :=
  t.uptime = 0 ∧ t.tick = 0 ∧ t.pef = false ∧ t.cmf = false ∧ t.lost = 0

/-- MAIN's step zeroes the timebase where it performs the reset action, and else keeps it. -/
theorem Effect.main_timebase (h : Effect s .main t) :
    (s.atResetAction = true ∧ t.timebaseZero) ∨ (s.atResetAction = false ∧ KeepsTimebase s t) := by
  cases h
  case reset w idle at_ ok | deinit w idle at_ ok | initStarts w idle at_ ok _ | initWaits w idle at_ ok _ =>
    exact .inl ⟨State.atResetAction_of_fetch idle at_ ok, rfl, rfl, rfl, rfl, rfl⟩
  case illegal w e idle at_ bad =>
    exact .inr ⟨State.atResetAction_of_illegal at_ bad, rfl, rfl, rfl, rfl, rfl⟩
  case delayMsWaits w d idle at_ ok _ _ | delayUsWaits w d idle at_ ok _ _ | suspend w idle at_ ok _
      | resume w idle at_ ok _ =>
    exact .inr ⟨State.atResetAction_of_fetch idle at_ ok, rfl, rfl, rfl, rfl, rfl⟩
  case undefinedQuery w i idle at_ ok use _ =>
    refine .inr ⟨(State.atResetAction_of_fetch idle at_ ok).trans ?_, rfl, rfl, rfl, rfl, rfl⟩
    obtain rfl | rfl | ⟨d, rfl⟩ | ⟨d, rfl⟩ := use <;> rfl
  case illegalTransition w i idle at_ ok use =>
    refine .inr ⟨(State.atResetAction_of_fetch idle at_ ok).trans ?_, rfl, rfl, rfl, rfl, rfl⟩
    obtain ⟨rfl, -⟩ | ⟨rfl, -⟩ := use <;> rfl
  case query w i v idle at_ ok use _ =>
    refine .inr ⟨(State.atResetAction_of_fetch idle at_ ok).trans ?_, rfl, rfl, rfl, rfl, rfl⟩
    obtain ⟨rfl, -⟩ | ⟨rfl, -⟩ := use <;> rfl
  case delayOver w i idle at_ ok use _ =>
    refine .inr ⟨(State.atResetAction_of_fetch idle at_ ok).trans ?_, rfl, rfl, rfl, rfl, rfl⟩
    obtain rfl | rfl := use <;> rfl
  case oscPollStarts wait _ | oscPollHolds wait _ | msPollOver _ _ wait _ | msPollHolds _ _ wait _
      | usPollOver _ _ wait _ | usPollHolds _ _ wait _ =>
    exact .inr ⟨State.atResetAction_of_wait (by simp [wait]), rfl, rfl, rfl, rfl, rfl⟩

/-- A step of MAIN with the reset action zeroes the timebase. -/
theorem StepsTo.timebaseZero (h : StepsTo .main s t) (reset : s.atResetAction = true) : t.timebaseZero := by
  obtain ⟨-, zero⟩ | ⟨no_reset, -⟩ := h.effect.main_timebase
  · exact zero
  · simp [reset] at no_reset

/-- The four things a step can do to the timebase: a tick, a service, a reset action, and nothing. -/
theorem StepsTo.timebase_cases (h : StepsTo a s t) :
    (a = .timer ∧ t = s.timerStep) ∨ (a = .handler ∧ t = s.handlerStep) ∨
      (a = .main ∧ s.atResetAction = true ∧ t.timebaseZero) ∨ KeepsTimebase s t := by
  cases a with
  | timer => cases h.2; exact .inl ⟨rfl, rfl⟩
  | handler => cases h.2; exact .inr (.inl ⟨rfl, rfl⟩)
  | osc => cases h.2; exact .inr (.inr (.inr ⟨rfl, rfl, rfl, rfl, rfl⟩))
  | main =>
    obtain ⟨reset, zero⟩ | ⟨-, keeps⟩ := h.effect.main_timebase
    · exact .inr (.inr (.inl ⟨rfl, reset, zero⟩))
    · exact .inr (.inr (.inr keeps))

@[simp] theorem State.timerStep_uptime (s : State) : s.timerStep.uptime = s.uptime := by
  obtain ⟨-, eq⟩ | ⟨-, eq⟩ := timerTick_cases Config.period s <;> simp [State.timerStep, eq]

@[simp] theorem State.timerStep_cmf (s : State) : s.timerStep.cmf = s.cmf := by
  obtain ⟨-, eq⟩ | ⟨-, eq⟩ := timerTick_cases Config.period s <;> simp [State.timerStep, eq]

/-- A rollover while one is pending is a lost period, and no other tick is (10_state.md rule R30). -/
theorem State.timerStep_lost (s : State) : s.timerStep.lost =
    if s.tick.toNat = Config.period - 1 ∧ s.pef = true then s.lost + 1 else s.lost := by
  obtain ⟨roll, eq⟩ | ⟨count, eq⟩ := timerTick_cases Config.period s
  · simp [State.timerStep, eq, roll]
  · simp [State.timerStep, eq, count]

/-! ### The two fields no step reads -/

/-- The state with other values of the flag `CMF` and the ghost `LOST`. -/
def State.withGhosts (s : State) (cmf : Bool) (lost : Nat) : State := { s with cmf := cmf, lost := lost }

/-- No agent's enabling reads them. -/
theorem State.withGhosts_enabled (s : State) (b : Bool) (n : Nat) (a : Agent) :
    (s.withGhosts b n).enabled a = s.enabled a := by
  cases a <;> rfl

/-- No effect reads them: from other values of both the same effect leads to the same state but for the two,
and to the same value of each that was not changed. -/
theorem Effect.withGhosts (h : Effect s a t) (b : Bool) (n : Nat) :
    ∃ u, Effect (s.withGhosts b n) a u ∧ u.withGhosts t.cmf t.lost = t ∧
      (b = s.cmf → u.cmf = t.cmf) ∧ (n = s.lost → u.lost = t.lost) := by
  cases h with
  | timerCounts count => exact ⟨_, .timerCounts count, rfl, id, id⟩
  | timerRolls roll => exact ⟨_, .timerRolls roll, rfl, id, by rintro rfl; rfl⟩
  | handler => exact ⟨_, .handler, rfl, fun _ => rfl, id⟩
  | osc => exact ⟨_, .osc, rfl, id, id⟩
  | illegal w e idle at_ bad => exact ⟨_, .illegal w e idle at_ bad, rfl, id, id⟩
  | undefinedQuery w i idle at_ ok use lc => exact ⟨_, .undefinedQuery w i idle at_ ok use lc, rfl, id, id⟩
  | illegalTransition w i idle at_ ok use => exact ⟨_, .illegalTransition w i idle at_ ok use, rfl, id, id⟩
  | query w i v idle at_ ok use lc => exact ⟨_, .query w i v idle at_ ok use lc, rfl, id, id⟩
  | delayOver w i idle at_ ok use lc => exact ⟨_, .delayOver w i idle at_ ok use lc, rfl, id, id⟩
  | delayMsWaits w d idle at_ ok pos lc => exact ⟨_, .delayMsWaits w d idle at_ ok pos lc, rfl, id, id⟩
  | delayUsWaits w d idle at_ ok pos lc => exact ⟨_, .delayUsWaits w d idle at_ ok pos lc, rfl, id, id⟩
  | reset w idle at_ ok => exact ⟨_, .reset w idle at_ ok, rfl, fun _ => rfl, fun _ => rfl⟩
  | deinit w idle at_ ok => exact ⟨_, .deinit w idle at_ ok, rfl, fun _ => rfl, fun _ => rfl⟩
  | initStarts w idle at_ ok rdy => exact ⟨_, .initStarts w idle at_ ok rdy, rfl, fun _ => rfl, fun _ => rfl⟩
  | initWaits w idle at_ ok rdy => exact ⟨_, .initWaits w idle at_ ok rdy, rfl, fun _ => rfl, fun _ => rfl⟩
  | suspend w idle at_ ok lc => exact ⟨_, .suspend w idle at_ ok lc, rfl, id, id⟩
  | resume w idle at_ ok lc => exact ⟨_, .resume w idle at_ ok lc, rfl, id, id⟩
  | oscPollStarts wait rdy => exact ⟨_, .oscPollStarts wait rdy, rfl, id, id⟩
  | oscPollHolds wait rdy => exact ⟨_, .oscPollHolds wait rdy, rfl, id, id⟩
  | msPollOver start d wait met => exact ⟨_, .msPollOver start d wait met, rfl, id, id⟩
  | msPollHolds start d wait met => exact ⟨_, .msPollHolds start d wait met, rfl, id, id⟩
  | usPollOver start d wait met => exact ⟨_, .usPollOver start d wait met, rfl, id, id⟩
  | usPollHolds start d wait met => exact ⟨_, .usPollHolds start d wait met, rfl, id, id⟩

/-- The same of an enabled agent's step. -/
theorem StepsTo.withGhosts (h : StepsTo a s t) (b : Bool) (n : Nat) :
    ∃ u, StepsTo a (s.withGhosts b n) u ∧ u.withGhosts t.cmf t.lost = t ∧
      (b = s.cmf → u.cmf = t.cmf) ∧ (n = s.lost → u.lost = t.lost) := by
  obtain ⟨u, effect, same⟩ := h.effect.withGhosts b n
  exact ⟨u, ⟨(s.withGhosts_enabled b n a).trans h.1, effect.agentStep_eq⟩, same⟩

/-- No step reads `CMF` (10_state.md rule R18). -/
theorem StepsTo.withCmf (h : StepsTo a s t) (b : Bool) :
    ∃ u, StepsTo a { s with cmf := b } u ∧ { u with cmf := t.cmf } = t := by
  obtain ⟨u, step, same, -, lost⟩ := h.withGhosts b s.lost
  refine ⟨u, step, ?_⟩
  rwa [← lost rfl] at same

/-- No step reads `LOST` (10_state.md rule R30). -/
theorem StepsTo.withLost (h : StepsTo a s t) (n : Nat) :
    ∃ u, StepsTo a { s with lost := n } u ∧ { u with lost := t.lost } = t := by
  obtain ⟨u, step, same, cmf, -⟩ := h.withGhosts s.cmf n
  refine ⟨u, step, ?_⟩
  rwa [← cmf rfl] at same

/-! ### What a step does to the stream, the command position and the result -/

/-- No step writes the command stream (20_memory.md rule R44). -/
theorem Effect.stream (h : Effect s a t) : t.stream = s.stream := by
  cases h <;> rfl

/-- A step completes a command of MAIN, or it leaves `CP` alone; MAIN then waits or has faulted (10_state.md
rule R32). -/
theorem Effect.cp_cases (h : Effect s a t) :
    (a = .main ∧ t.cp = s.cp + 1 ∧ t.ms = .idle ∧ t.fault = s.fault) ∨
      (t.cp = s.cp ∧ (a = .main → t.ms ≠ .idle ∨ t.fault ≠ 0)) := by
  cases h
  case timerCounts | timerRolls | handler | osc => exact .inr ⟨rfl, nofun⟩
  case illegal | undefinedQuery | illegalTransition =>
    exact .inr ⟨rfl, fun _ => .inr (by simp [FaultCode.code])⟩
  case delayMsWaits | delayUsWaits | initWaits => exact .inr ⟨rfl, fun _ => .inl nofun⟩
  case oscPollHolds wait _ | msPollHolds wait _ | usPollHolds wait _ =>
    exact .inr ⟨rfl, fun _ => .inl (by simp [wait])⟩
  all_goals exact .inl ⟨rfl, rfl, rfl, rfl⟩

/-- Only a completing query writes `RES` (10_state.md rule R28). -/
theorem Effect.res_cases (h : Effect s a t) :
    t.res = s.res ∨
    (a = .main ∧ s.ms = .idle ∧ t.cp = s.cp + 1 ∧
      ((s.fetch = some (encode .millis) ∧ t.res = some s.uptime) ∨
       (s.fetch = some (encode .micros) ∧ t.res = some s.snapshot))) := by
  cases h
  case query w i v idle at_ ok use _ =>
    obtain rfl := eq_encode_of_decode ok
    refine .inr ⟨rfl, idle, rfl, ?_⟩
    obtain ⟨rfl, rfl⟩ | ⟨rfl, rfl⟩ := use
    · exact .inl ⟨at_, rfl⟩
    · exact .inr ⟨at_, rfl⟩
  all_goals exact .inl rfl

end Sys2Proof.Machine

namespace Sys2Proof.Machine

/-! ### The obligations -/

/-- Settles O36: a step does one of four things to the timebase, none of which sets `CMF`; and no effect
reads it. -/
theorem compareMatchIsNeverSetNorRead : Obligations.CompareMatchIsNeverSetNorRead := by
  refine ⟨fun a s t h set => ?_, fun s t h => ?_, fun s t h reset => ?_, fun a s t b h => h.withCmf b⟩
  · obtain ⟨-, rfl⟩ | ⟨-, rfl⟩ | ⟨-, -, -, -, -, cmf, -⟩ | ⟨-, -, -, cmf, -⟩ := h.timebase_cases
    · simpa using set
    · simp at set
    · simp [cmf] at set
    · rwa [cmf] at set
  · cases h; rfl
  · obtain ⟨-, -, -, cmf, -⟩ := h.timebaseZero reset
    exact cmf

/-- Settles O37: the tick of the timer is the only one of the four cases that adds to `LOST`; and no effect
reads it. -/
theorem lostIsAGhost : Obligations.LostIsAGhost := by
  refine ⟨fun a s t h => ?_, fun s t h roll pending => ?_, fun s t h reset => ?_, fun a s t n h => h.withLost n⟩
  · obtain ⟨rfl, rfl⟩ | ⟨-, rfl⟩ | ⟨rfl, reset, -, -, -, -, lost⟩ | ⟨-, -, -, -, lost⟩ := h.timebase_cases
    · rw [State.timerStep_lost]
      split
      next lose => exact .inr (.inl ⟨rfl, lose.1, lose.2, rfl⟩)
      next => exact .inl rfl
    · exact .inl rfl
    · exact .inr (.inr ⟨rfl, reset, lost⟩)
    · exact .inl lost
  · cases h.2
    rw [State.timerStep_lost, if_pos ⟨roll, pending⟩]
  · obtain ⟨-, -, -, -, lost⟩ := h.timebaseZero reset
    exact lost

/-- Settles O38: of the four cases the service alone adds to `UPTIME`, and it needs the interrupt's request. -/
theorem uptimeIsWrittenOnlyByHandlerAndReset : Obligations.UptimeIsWrittenOnlyByHandlerAndReset := by
  refine ⟨fun a s t h => ?_, fun s t h => ?_, fun s t h reset => ?_⟩
  · obtain ⟨-, rfl⟩ | ⟨rfl, rfl⟩ | ⟨rfl, reset, uptime, -⟩ | ⟨uptime, -⟩ := h.timebase_cases
    · exact .inl s.timerStep_uptime
    · obtain ⟨pef, -, -, clken, cnten⟩ := State.enabled_handler_iff.1 h.1
      exact .inr (.inl ⟨rfl, pef, cnten, clken, rfl⟩)
    · exact .inr (.inr ⟨rfl, reset, uptime⟩)
    · exact .inl uptime
  · cases h.2
    refine ⟨rfl, fun full => ⟨?_, rfl, rfl, rfl⟩⟩
    rw [State.handlerStep_uptime, full]
    decide
  · exact (h.timebaseZero reset).1

/-- Settles O41: of all effects the queries' alone write `RES`, and the read of it follows its two values. -/
theorem resultIsWrittenOnlyByQueries : Obligations.ResultIsWrittenOnlyByQueries := by
  refine ⟨fun a s t h => h.effect.res_cases, State.resetAction_res, fun _ _ => rfl, fun s unwritten => ?_,
    fun s v written => ?_⟩
  · rw [State.readRes, unwritten]
  · rw [State.readRes, written]

/-- Settles O42: a step either completes MAIN's command or keeps `CP`, and MAIN has a step only inside the
stream and unfaulted. -/
theorem commandPositionAdvancesOnlyOnCompletion : Obligations.CommandPositionAdvancesOnlyOnCompletion := by
  refine ⟨fun _ _ => rfl, fun a s t h => ?_, fun s atEnd => ?_⟩
  · have stream := h.effect.stream
    obtain ⟨rfl, cp, ms, fault⟩ | ⟨cp, stays⟩ := h.effect.cp_cases
    · obtain ⟨unfaulted, inside⟩ := State.enabled_main_iff.1 h.1
      refine ⟨stream, fun _ => ?_, .inr cp, fun _ => ⟨rfl, ms, fault.trans unfaulted⟩, fun _ => cp⟩
      rw [cp, stream]
      exact inside
    · refine ⟨stream, fun bound => by rwa [cp, stream], .inl cp, fun advanced => by omega, ?_⟩
      rintro ⟨rfl, idle, unfaulted⟩
      obtain waits | faulted := stays rfl
      · exact absurd idle waits
      · exact absurd unfaulted faulted
  · rw [← Bool.not_eq_true, State.enabled_main_iff]
    omega

end Sys2Proof.Machine

/-! # Bytes of a word

A command word and a result as bytes, least significant first (20_memory.md rule R37). Both byte lists are a
word's slices `[8k+7 : 8k]` in the order of `k`, so one lemma about such a list serves both. -/

namespace Sys2Proof

/-- Byte `k` of a word in numbers: the word divided by `2^(8k)`, modulo `2^8`. -/
theorem extractByte_eq_ofNat {n : Nat} (x : BitVec n) (k : Nat) :
    x.extractLsb' (8 * k) 8 = BitVec.ofNat 8 (x.toNat / 2 ^ (8 * k)) := by
  rw [BitVec.extractLsb', Nat.shiftRight_eq_div_pow]

/-- The first `m` bytes of a word, least significant first. -/
def lowBytes {n : Nat} (m : Nat) (x : BitVec n) : List Byte :=
  (List.range m).map fun k => x.extractLsb' (8 * k) 8

@[simp] theorem length_lowBytes {n : Nat} (m : Nat) (x : BitVec n) : (lowBytes m x).length = m := by
  simp [lowBytes]

theorem getElem?_lowBytes {n m k : Nat} (x : BitVec n) (h : k < m) :
    (lowBytes m x)[k]? = some (BitVec.ofNat 8 (x.toNat / 2 ^ (8 * k))) := by
  rw [lowBytes, List.getElem?_map, List.getElem?_range h, Option.map_some, extractByte_eq_ofNat]

theorem commandBytes_eq_lowBytes (w : CommandWord) : commandBytes w = lowBytes 8 w := rfl

theorem resultBytes_eq_lowBytes (v : Word) : resultBytes v = lowBytes 4 v := rfl

/-- Decoding the bytes of a word, with any bytes after them, is decoding the word (30_encoding.md rule R52). -/
theorem decodeBytes_commandBytes {w : CommandWord} {i : Instr} (ok : decode w = .ok i) (rest : List Byte) :
    decodeBytes (commandBytes w ++ rest) = .ok (i, rest) := by
  simp only [decodeBytes, takeCommandWord_commandBytes, ok]

/-- Settles O11: both byte lists are low bytes of their word, and a command's bytes assemble to its encoding,
which decodes to the command. -/
theorem bytesAreLittleEndian : Obligations.BytesAreLittleEndian := by
  refine ⟨fun w k h => ?_, fun w => ?_, fun v k h => ?_, fun v => ?_, fun i rest => ?_⟩
  · rw [commandBytes_eq_lowBytes, getElem?_lowBytes w h]
  · rw [commandBytes_eq_lowBytes, length_lowBytes]
  · rw [resultBytes_eq_lowBytes, getElem?_lowBytes v h]
  · rw [resultBytes_eq_lowBytes, length_lowBytes]
  · exact decodeBytes_commandBytes (decode_encode i) rest

end Sys2Proof

/-! # Illegal command words

A word is illegal by its fields, and MAIN's fetch of it faults (30_encoding.md rule R51). -/

namespace Sys2Proof

theorem bareCommand_eq_none_iff {op : BitVec 8} : bareCommand op = none ↔ op ∉ bareOpcodes := by
  unfold bareCommand
  split_ifs <;> simp_all [bareOpcodes]

theorem delayCommand_eq_none_iff {op : BitVec 8} {arg : Word} :
    delayCommand op arg = none ↔ op ∉ delayOpcodes := by
  unfold delayCommand
  split_ifs <;> simp_all [delayOpcodes]

/-- The three grounds on which the decoder refuses a word's fields (30_encoding.md rule R51). -/
theorem decodeFields_error_iff {f : Fields} : (∃ e, decodeFields f = .error e) ↔
    f.op ∉ bareOpcodes ++ delayOpcodes ∨ f.rsvd ≠ 0 ∨ (f.arg ≠ 0 ∧ f.op ∈ bareOpcodes) := by
  unfold decodeFields
  split
  next rsvd_zero =>
    split
    next i found =>
      have bare : f.op ∈ bareOpcodes := bareCommand_eq_none_iff.not_left.1 (by simp [found])
      split
      next arg_zero => simp [bare, rsvd_zero, arg_zero]
      next arg_nonzero => exact iff_of_true ⟨_, rfl⟩ (.inr (.inr ⟨arg_nonzero, bare⟩))
    next not_found =>
      have not_bare : f.op ∉ bareOpcodes := bareCommand_eq_none_iff.1 not_found
      split
      next i found =>
        have delay : f.op ∈ delayOpcodes :=
          (delayCommand_eq_none_iff (arg := f.arg)).not_left.1 (by simp [found])
        simp [delay, rsvd_zero, not_bare]
      next not_found =>
        have not_delay : f.op ∉ delayOpcodes := delayCommand_eq_none_iff.1 not_found
        simp [not_bare, not_delay]
  next rsvd_nonzero => exact iff_of_true ⟨_, rfl⟩ (.inr (.inl rsvd_nonzero))

end Sys2Proof

namespace Sys2Proof.Machine

/-- A word is at `CP` only where `CP` is inside the stream, so an unfaulted MAIN there has a step. -/
theorem State.enabled_main_of_fetch {s : State} {w : CommandWord} (unfaulted : s.fault = 0)
    (at_ : s.fetch = some w) : s.enabled .main = true :=
  State.enabled_main_iff.2 ⟨unfaulted, (List.getElem?_eq_some_iff.1 at_).1⟩

/-- Settles O9: the refused fields are the decoder's three grounds, the fault is MAIN's effect at an illegal
word, and the all-zero word has no assigned opcode. -/
theorem illegalWordsFault : Obligations.IllegalWordsFault := by
  refine ⟨fun w => decodeFields_error_iff, fun s w e unfaulted idle at_ bad => ?_, .unknownOpcode, by decide⟩
  exact ⟨State.enabled_main_of_fetch unfaulted at_, (Effect.illegal w e idle at_ bad).agentStep_eq⟩

end Sys2Proof.Machine

/-! # The agents that run on their own, and the control bits

When TIMER and OSC have a step and what their steps and the HANDLER's do (40_tick_and_handler.md rules R56, R57,
R61, R62 and R66), and who writes the control bits (rule R67; 10_state.md rules R19 to R26). -/

namespace Sys2Proof.Machine

variable {a : Agent} {s t : State}

/-! ### When TIMER and OSC have a step -/

theorem State.enabled_timer_iff : s.enabled .timer = true ↔
    s.clken = true ∧ s.cnten = true ∧ s.cfg = true ∧ s.oscrdy = true := by
  simp [State.enabled, State.counting, and_assoc]

theorem State.enabled_osc_iff : s.enabled .osc = true ↔ s.oscen = true ∧ s.oscrdy = false := by
  simp [State.enabled]

/-! ### One tick -/

/-- A rollover raises `PEF`, and adds to `LOST` the period that was still pending (40_tick_and_handler.md
rules R57 and R69). -/
theorem State.timerStep_of_rollover (roll : s.tick.toNat = Config.period - 1) :
    s.timerStep = { s with lost := s.lost + s.pef.toNat, tick := 0, pef := true } := by
  rw [State.timerStep, State.timerTick, if_pos roll, State.raisePef]
  cases s.pef <;> rfl

theorem State.timerStep_of_count (count : s.tick.toNat ≠ Config.period - 1) :
    s.timerStep = { s with tick := s.tick + 1 } := by
  rw [State.timerStep, State.timerTick, if_neg count]

/-- `TICK` never takes the value `P` or above (40_tick_and_handler.md rule R57). -/
theorem State.timerStep_tickInPeriod (inPeriod : s.tickInPeriod) : s.timerStep.tickInPeriod := by
  unfold State.tickInPeriod at *
  by_cases roll : s.tick.toNat = Config.period - 1
  · simp [State.timerStep_of_rollover roll]
  · rw [State.timerStep_of_count roll]
    simp only [Config.period] at *
    bv_omega

/-- A tick in the period is below `P`. -/
theorem State.tickInPeriod_iff : s.tickInPeriod ↔ s.tick.toNat < Config.period := by
  simp only [State.tickInPeriod, Config.period]
  omega

/-! ### Who writes the control bits -/

/-- Only the OSC agent writes `OSCRDY`, and it sets it (40_tick_and_handler.md rule R67). -/
theorem Effect.oscrdy_cases (h : Effect s a t) :
    t.oscrdy = s.oscrdy ∨ (a = .osc ∧ t.oscrdy = true) := by
  cases h
  case osc => exact .inr ⟨rfl, rfl⟩
  all_goals exact .inl rfl

/-- No step clears `OSCEN`, `CFG` or `IE`: the two starts of `INIT` and its wait set some of them, and nothing else
writes them (10_state.md rules R19, R20 and R24). -/
theorem Effect.latchedBits_mono (h : Effect s a t) :
    (s.oscen = true → t.oscen = true) ∧ (s.cfg = true → t.cfg = true) ∧ (s.ie = true → t.ie = true) := by
  cases h
  case initStarts => exact ⟨fun _ => rfl, fun _ => rfl, fun _ => rfl⟩
  case initWaits => exact ⟨fun _ => rfl, id, id⟩
  case oscPollStarts => exact ⟨id, fun _ => rfl, fun _ => rfl⟩
  all_goals exact ⟨id, id, id⟩

/-- TIMER, HANDLER and OSC write no control bit but `OSCRDY`, and not `LC` (40_tick_and_handler.md rules R57, R62
and R66). -/
theorem Effect.controlBits_of_ne_main (h : Effect s a t) (other : a ≠ .main) :
    t.oscen = s.oscen ∧ t.cfg = s.cfg ∧ t.ie = s.ie ∧ t.cnten = s.cnten ∧ t.clken = s.clken ∧
      t.irqen = s.irqen ∧ t.lc = s.lc := by
  cases h
  case timerCounts | timerRolls | handler | osc => exact ⟨rfl, rfl, rfl, rfl, rfl, rfl, rfl⟩
  all_goals exact absurd rfl other

/-! ### The obligations -/

/-- Settles O40: the three facts about who writes which bit, over every effect of a step. -/
theorem controlBitsAreWrittenOnlyByTheirWriters : Obligations.ControlBitsAreWrittenOnlyByTheirWriters := by
  intro a s t h
  obtain ⟨oscen, cfg, ie⟩ := h.effect.latchedBits_mono
  have others := h.effect.controlBits_of_ne_main
  obtain keeps | ⟨osc, ready⟩ := h.effect.oscrdy_cases
  · exact ⟨fun set => keeps.trans set, fun changed => absurd keeps changed, oscen, cfg, ie, others⟩
  · exact ⟨fun _ => ready, fun _ => osc, oscen, cfg, ie, others⟩

/-- Settles O29: the enabling is `Counting`, which the invariant ties to Running, and a tick is a rollover or a
count. -/
theorem timerCountsTicks : Obligations.TimerCountsTicks := by
  refine fun s => ⟨State.enabled_timer_iff, fun inv => inv.counts, fun roll => ?_, fun count => ?_,
    fun inPeriod t h => ?_⟩
  · rw [← State.timerStep_of_rollover roll]
    rfl
  · rw [← State.timerStep_of_count count]
    rfl
  · cases h
    exact State.tickInPeriod_iff.1 (State.timerStep_tickInPeriod inPeriod)

/-- Settles O30: the enabling is `IRQ`, and the step is the acknowledge with one more in `UPTIME`, whose sum
wraps. -/
theorem handlerServesThePeriod : Obligations.HandlerServesThePeriod := by
  refine fun s => ⟨State.enabled_handler_iff, rfl, fun full t h => ?_⟩
  cases h
  rw [State.handlerStep_uptime, full]
  decide

/-- Settles O31: the enabling is the request without the answer, and the step is the model's own. -/
theorem oscillatorBecomesReady : Obligations.OscillatorBecomesReady :=
  fun _ => ⟨State.enabled_osc_iff, rfl⟩

end Sys2Proof.Machine

/-! # The time queries

What `MILLIS` and `MICROS` answer (41_time_query.md rules R70 and R71). The guard they share with the delays is
said once for each of its two sides, and the composed value once in numbers. -/

namespace Sys2Proof.Machine

variable {s : State}

/-! ### The guard of a use of the timebase, and the composed value -/

/-- A use of the timebase in Uninitialized is `UNDEFINED_QUERY` (60_exceptions.md rule R91). -/
theorem guardQuery_of_uninitialized (lc : s.lc = .uninitialized) (t : State) :
    guardQuery s t = .next { s with fault := 0x02 } := by
  rw [guardQuery_eq, if_pos lc]
  rfl

theorem guardQuery_of_ne_uninitialized (lc : s.lc ≠ .uninitialized) (t : State) : guardQuery s t = .next t := by
  rw [guardQuery_eq, if_neg lc]

/-- `Snapshot()` in numbers (41_time_query.md rule R71). -/
theorem State.snapshot_eq_ofNat (s : State) : s.snapshot =
    BitVec.ofNat 32 ((s.uptime.toNat + s.pef.toNat) * Config.period + s.tick.toNat) :=
  compose_eq Config.period s.uptime s.pef s.tick

/-! ### The obligations -/

/-- Settles O17: the guard's two sides, of which the allowed one answers the raw counter. -/
theorem millisReturnsTheCounter : Obligations.MillisReturnsTheCounter :=
  ⟨decode_encode .millis, fun s =>
    ⟨fun allowed => guardQuery_of_ne_uninitialized allowed (s.answer s.uptime),
      fun uninit => guardQuery_of_uninitialized uninit (s.answer s.uptime)⟩⟩

/-- Settles O18: the guard's two sides, of which the allowed one answers the composed value. -/
theorem microsReturnsTheComposedTime : Obligations.MicrosReturnsTheComposedTime := by
  refine ⟨decode_encode .micros, fun s => ⟨fun allowed => ?_, fun uninit => ?_⟩⟩
  · rw [← s.snapshot_eq_ofNat]
    exact guardQuery_of_ne_uninitialized allowed (s.answer s.snapshot)
  · exact guardQuery_of_uninitialized uninit (s.answer s.snapshot)

end Sys2Proof.Machine

/-! # The polls of a delay

A poll completes the delay or holds, by whether the wait is over (42_delay.md rule R78); the invariant gives a
waiting MAIN its step. -/

namespace Sys2Proof.Machine

variable {s : State}

/-- A wait is not over exactly while the difference is below the duration (42_delay.md rule R78). -/
theorem waitOver_eq_false_iff (now start d : Word) :
    waitOver now start d = false ↔ ¬ d.toNat ≤ (now - start).toNat := by
  rw [← waitOver_iff, Bool.not_eq_true]

/-- A wait is of an unfaulted command of the stream, so MAIN has a step in it (10_state.md rule R32;
60_exceptions.md rule R93). -/
theorem State.Inv.enabled_main_of_wait (inv : s.Inv) (wait : s.ms ≠ .idle) : s.enabled .main = true :=
  State.enabled_main_iff.2 ⟨inv.waitsUnfaulted wait, inv.waitsInStream wait⟩

/-- Settles O21: each delay's two polls are MAIN's effects in its wait, the enabling is that of any wait, and the
lifecycle is the invariant's (I-D). -/
theorem delayPolls : Obligations.DelayPolls := by
  refine fun s start d => ⟨fun wait => ⟨fun met => ?_, fun short => ?_⟩,
    fun wait => ⟨fun met => ?_, fun short => ?_⟩, fun inv wait => ⟨?_, inv.delayWait start d wait⟩⟩
  · exact (Effect.msPollOver start d wait ((waitOver_iff ..).2 met)).agentStep_eq
  · exact (Effect.msPollHolds start d wait ((waitOver_eq_false_iff ..).2 short)).agentStep_eq
  · exact (Effect.usPollOver start d wait ((waitOver_iff ..).2 met)).agentStep_eq
  · exact (Effect.usPollHolds start d wait ((waitOver_eq_false_iff ..).2 short)).agentStep_eq
  · have waiting : s.ms ≠ .idle := by rcases wait with wait | wait <;> simp [wait]
    exact inv.enabled_main_of_wait waiting

end Sys2Proof.Machine

/-! # The lifecycle

The five lifecycle commands, the oscillator wait of `INIT`, and the table of every command in every lifecycle state
(43_lifecycle.md rules R81 to R88). Each command's whole next state is said by its own statement; the table reads its
rows off them. -/

namespace Sys2Proof.Machine

variable {i : Instr} {s t : State}

/-! ### A timebase that stands still, and a ready oscillator -/

/-- Without the clock or the counter's enable nothing counts and nothing is requested (10_state.md rule R33). -/
theorem State.not_counting_nor_irq (off : s.clken = false ∨ s.cnten = false) :
    s.counting = false ∧ s.irq = false := by
  obtain off | off := off <;> simp [State.counting, State.irq, off]

/-- The oscillator is ready in Running and Suspended (10_state.md rule R34). -/
theorem State.Inv.oscrdy_of_ne_uninitialized (inv : s.Inv) (lc : s.lc ≠ .uninitialized) : s.oscrdy = true := by
  cases state : s.lc with
  | uninitialized => exact absurd state lc
  | running =>
    obtain ⟨-, -, -, -, -, -, rdy⟩ := inv.running state
    exact rdy
  | suspended =>
    obtain ⟨-, -, -, -, -, rdy, -⟩ := inv.suspended state
    exact rdy

/-! ### The oscillator wait -/

/-- Without the oscillator a step keeps the wait of `INIT`: only the OSC agent's sets `OSCRDY`, and MAIN's poll holds
(43_lifecycle.md rule R84). -/
theorem Effect.oscWait_stays {a : Agent} (h : Effect s a t) (wait : s.ms = .waitOsc) (rdy : s.oscrdy = false) :
    t.ms = .waitOsc ∧ (t.oscrdy = true ↔ a = .osc) := by
  cases a with
  | main =>
    obtain rfl : s = t := by
      simpa [(Effect.oscPollHolds wait rdy).agentStep_eq] using h.agentStep_eq
    simp [wait, rdy]
  | timer => cases h <;> simp [wait, rdy]
  | handler => cases h; simp [wait, rdy]
  | osc => cases h; simp [wait]

/-- Settles O24: the two polls are MAIN's effects in the wait, which the invariant puts in Uninitialized, without the
clock; and every step without the oscillator keeps it. -/
theorem oscillatorWait : Obligations.OscillatorWait := by
  refine fun s wait => ⟨fun rdy => (Effect.oscPollStarts wait rdy).agentStep_eq,
    fun rdy => (Effect.oscPollHolds wait rdy).agentStep_eq, fun inv => ?_,
    fun _ rdy _ _ h => h.effect.oscWait_stays wait rdy⟩
  have lc := inv.oscWait wait
  obtain ⟨clken, -⟩ := inv.unclocked lc
  exact ⟨lc, clken, inv.enabled_main_of_wait (by simp [wait]), State.not_counting_nor_irq (.inl clken)⟩

/-! ### The lifecycle commands -/

/-- `INIT` with the oscillator (43_lifecycle.md rule R83). -/
theorem execInit_of_ready (rdy : s.oscrdy = true) :
    execInit s = .next ({ s.resetAction with oscen := true } : State).finishInit := by
  rw [execInit_eq, if_pos rdy]

/-- `INIT` without the oscillator (43_lifecycle.md rule R83). -/
theorem execInit_of_not_ready (rdy : s.oscrdy = false) :
    execInit s = .next { s.resetAction with oscen := true, ms := .waitOsc } := by
  rw [execInit_eq, if_neg (by simp [rdy])]

theorem transition_of_source {source : Lifecycle} (lc : s.lc = source) (target : Lifecycle) (count : Bool) :
    transition source target count s =
      .next { s with cnten := count, lc := target, ms := .idle, cp := s.cp + 1 } := by
  rw [transition_eq, if_pos lc]
  rfl

/-- A transition elsewhere is `ILLEGAL_TRANSITION` (60_exceptions.md rule R91). -/
theorem transition_of_ne_source {source : Lifecycle} (lc : s.lc ≠ source) (target : Lifecycle) (count : Bool) :
    transition source target count s = .next { s with fault := 0x03 } := by
  rw [transition_eq, if_neg lc]
  rfl

/-- Settles O22: the reset action and the completion. -/
theorem resetZeroesTheTimebase : Obligations.ResetZeroesTheTimebase :=
  ⟨decode_encode .reset, fun _ => rfl⟩

/-- Settles O23: the two sides of `INIT`'s first step, of which the invariant leaves the start alone outside
Uninitialized. -/
theorem initFirstStep : Obligations.InitFirstStep :=
  ⟨decode_encode .init, fun _ => ⟨execInit_of_ready, execInit_of_not_ready, State.Inv.oscrdy_of_ne_uninitialized⟩⟩

/-- Settles O25: the two sides of the transition, of which the allowed one turns the counter's enable off. -/
theorem suspendFreezesTheTimebase : Obligations.SuspendFreezesTheTimebase := by
  refine ⟨decode_encode .suspend, fun s => ⟨fun lc => ?_, fun lc => transition_of_ne_source lc _ _⟩⟩
  have suspends := transition_of_source lc .suspended false
  refine ⟨suspends, fun t h => ?_⟩
  have off : t.cnten = false := by cases suspends.symm.trans h; rfl
  obtain ⟨counting, irq⟩ := State.not_counting_nor_irq (.inr off)
  exact ⟨counting, irq, counting, irq⟩

/-- Settles O26: the two sides of the transition, of which the allowed one turns on the one bit that a pending
interrupt lacks in Suspended. -/
theorem resumeContinuesTheTimebase : Obligations.ResumeContinuesTheTimebase := by
  refine ⟨decode_encode .resume, fun s => ⟨fun lc => ?_, fun lc => transition_of_ne_source lc _ _⟩⟩
  have resumes := transition_of_source lc .running true
  refine ⟨resumes, fun inv pending t h => ?_⟩
  cases resumes.symm.trans h
  obtain ⟨-, ie, clken, irqen, -⟩ := inv.suspended lc
  simp [State.irq, pending, ie, clken, irqen]

/-- Settles O27: the two bits cleared, the reset action and the completion. -/
theorem deinitStopsTheTimebase : Obligations.DeinitStopsTheTimebase :=
  ⟨decode_encode .deinit, fun _ => rfl⟩

/-! ### The uses of the timebase -/

/-- Every use of the timebase faults in Uninitialized (60_exceptions.md rule R91). -/
theorem exec_use_of_uninitialized
    (use : i = .millis ∨ i = .micros ∨ (∃ d, i = .delayMs d) ∨ ∃ d, i = .delayUs d)
    (lc : s.lc = .uninitialized) : exec i s = .next { s with fault := 0x02 } := by
  obtain rfl | rfl | ⟨d, rfl⟩ | ⟨d, rfl⟩ := use <;> exact guardQuery_of_uninitialized lc _

/-- A query answers elsewhere (41_time_query.md rules R70 and R71). -/
theorem exec_query_of_ne_uninitialized (use : i = .millis ∨ i = .micros) (lc : s.lc ≠ .uninitialized) :
    ∃ v, exec i s = .next (s.answer v) := by
  obtain rfl | rfl := use <;> exact ⟨_, guardQuery_of_ne_uninitialized lc _⟩

/-- A delay's first step elsewhere completes it or begins a wait (42_delay.md rules R76 and R77). -/
theorem exec_delay_of_ne_uninitialized (use : (∃ d, i = .delayMs d) ∨ ∃ d, i = .delayUs d)
    (lc : s.lc ≠ .uninitialized) :
    exec i s = .next s.complete ∨ ∃ w, w ≠ .idle ∧ exec i s = .next { s with ms := w } := by
  obtain ⟨start, d, wait, waits, begins⟩ : ∃ start d wait, wait ≠ .idle ∧
      exec i s = guardQuery s (s.beginDelay start d wait) := by
    obtain ⟨d, rfl⟩ | ⟨d, rfl⟩ := use <;> exact ⟨_, d, _, by nofun, rfl⟩
  rw [begins, guardQuery_of_ne_uninitialized lc, State.beginDelay_eq]
  split
  · exact .inl rfl
  · exact .inr ⟨wait, waits, rfl⟩

/-! ### The table -/

/-- No command is refused, and a fault of a command is a next state. -/
theorem exec_answers (i : Instr) (s : State) : ∃ t, exec i s = .next t := by
  cases i with
  | init => exact ⟨_, execInit_eq s⟩
  | deinit | reset => exact ⟨_, rfl⟩
  | suspend | resume => exact ⟨_, transition_eq ..⟩
  | millis | micros | delayMs d | delayUs d => exact ⟨_, guardQuery_eq ..⟩

/-- Settles O28: `exec` answers, and each command's row is read off its next state. -/
theorem lifecycleTable : Obligations.LifecycleTable := by
  intro i s inv
  obtain ⟨t, h⟩ := exec_answers i s
  refine ⟨t, h, ?init, ?reset, ?suspend, ?resume, ?deinit, fun use => ?use⟩
  case init =>
    rintro rfl
    obtain rdy | rdy := s.oscrdy.eq_false_or_eq_true
    · cases (execInit_of_ready rdy).symm.trans h
      refine ⟨rfl, rfl, rfl, rfl, rfl, fun _ => ⟨rfl, ?_, rfl, rfl⟩, fun _ down => ?_⟩
      · simp [State.counting, rdy]
      · simp [rdy] at down
    · have uninit : s.lc = .uninitialized := by
        by_contra lc
        simp [inv.oscrdy_of_ne_uninitialized lc] at rdy
      cases (execInit_of_not_ready rdy).symm.trans h
      refine ⟨rfl, rfl, rfl, rfl, rfl, fun ready => ?_, fun _ _ => ⟨uninit, rfl, rfl⟩⟩
      simp [uninit, rdy] at ready
  case reset =>
    rintro rfl
    cases h
    exact ⟨rfl, rfl, rfl, rfl, rfl, rfl, rfl⟩
  case suspend | resume =>
    rintro rfl
    refine ⟨fun lc => ?_, fun lc => ?_⟩
    · cases (transition_of_source lc _ _).symm.trans h
      exact ⟨rfl, rfl, rfl, rfl⟩
    · cases (transition_of_ne_source lc _ _).symm.trans h
      exact ⟨rfl, rfl, rfl⟩
  case deinit =>
    rintro rfl
    cases h
    exact ⟨rfl, rfl, rfl, rfl, rfl⟩
  case use =>
    by_cases lc : s.lc = .uninitialized
    · cases (exec_use_of_uninitialized use lc).symm.trans h
      exact ⟨rfl, fun _ => ⟨rfl, rfl⟩, fun allowed => absurd lc allowed⟩
    by_cases query : i = .millis ∨ i = .micros
    · obtain ⟨v, answers⟩ := exec_query_of_ne_uninitialized query lc
      cases answers.symm.trans h
      refine ⟨rfl, fun uninit => absurd uninit lc, fun _ => ⟨rfl, fun _ => ⟨rfl, rfl, rfl⟩, fun delay => ?_⟩⟩
      exact absurd query (not_or.2 delay)
    · obtain completes | ⟨w, waits, begins⟩ :=
        exec_delay_of_ne_uninitialized ((or_assoc.2 use).resolve_left query) lc
      · cases completes.symm.trans h
        exact ⟨rfl, fun uninit => absurd uninit lc, fun _ => ⟨rfl, (absurd · query), fun _ => .inl ⟨rfl, rfl⟩⟩⟩
      · cases begins.symm.trans h
        exact ⟨rfl, fun uninit => absurd uninit lc, fun _ => ⟨rfl, (absurd · query), fun _ => .inr ⟨waits, rfl⟩⟩⟩

end Sys2Proof.Machine

/-! # Faults

Which words raise which fault, and what holds from the fault on (60_exceptions.md rules R91 to R93). A step either
leaves `FAULT` alone or is MAIN's fault at the word it fetched; everything else about faults is read off that. -/

namespace Sys2Proof.Machine

variable {a : Agent} {s t : State} {w : CommandWord} {c : FaultCode}

/-! ### The fault a word raises -/

/-- The table of 60_exceptions.md rule R91: MAIN's fetch of `w` in the state `s` raises the fault. -/
def State.raisesAt (s : State) (w : CommandWord) : FaultCode → Prop
  | .illegalCommand => ∃ e, decode w = .error e
  | .undefinedQuery => s.lc = .uninitialized ∧
      (decode w = .ok .millis ∨ decode w = .ok .micros ∨ (∃ d, decode w = .ok (.delayMs d)) ∨
        ∃ d, decode w = .ok (.delayUs d))
  | .illegalTransition => (decode w = .ok .suspend ∧ s.lc ≠ .running) ∨ (decode w = .ok .resume ∧ s.lc ≠ .suspended)
  | .handlerNoAck => False

/-- A value of `FAULT` tells which fault it was. -/
theorem FaultCode.code_injective : Function.Injective FaultCode.code := fun c d => by
  cases c <;> cases d <;> decide

theorem FaultCode.code_ne_zero (c : FaultCode) : c.code ≠ 0 := by
  cases c <;> decide

/-- The table's reading from right to left: what it raises at the word is a step MAIN can take. -/
theorem Effect.of_raisesAt (idle : s.ms = .idle) (at_ : s.fetch = some w) (raises : s.raisesAt w c) :
    Effect s .main (s.raiseFault c) := by
  cases c with
  | illegalCommand =>
    obtain ⟨e, bad⟩ := raises
    exact .illegal w e idle at_ bad
  | undefinedQuery =>
    obtain ⟨lc, ok | ok | ⟨d, ok⟩ | ⟨d, ok⟩⟩ := raises <;> exact .undefinedQuery w _ idle at_ ok (by simp) lc
  | illegalTransition =>
    obtain ⟨ok, lc⟩ | ⟨ok, lc⟩ := raises <;> exact .illegalTransition w _ idle at_ ok (by simp [lc])
  | handlerNoAck => exact raises.elim

/-- A step leaves `FAULT` alone, or it is MAIN's fault at its word, by the table (60_exceptions.md rules R91 to R93). -/
theorem Effect.fault_cases (h : Effect s a t) :
    t.fault = s.fault ∨
      (a = .main ∧ s.ms = .idle ∧ ∃ w c, s.fetch = some w ∧ s.raisesAt w c ∧ t = s.raiseFault c) := by
  cases h
  case illegal w e idle at_ bad => exact .inr ⟨rfl, idle, w, .illegalCommand, at_, ⟨e, bad⟩, rfl⟩
  case undefinedQuery w i idle at_ ok use lc =>
    refine .inr ⟨rfl, idle, w, .undefinedQuery, at_, ⟨lc, ?_⟩, rfl⟩
    simpa [ok] using use
  case illegalTransition w i idle at_ ok use =>
    refine .inr ⟨rfl, idle, w, .illegalTransition, at_, ?_, rfl⟩
    simpa [State.raisesAt, ok] using use
  all_goals exact .inl rfl

/-- MAIN's step at a word writes a fault's code exactly when the table raises that fault there. -/
theorem StepsTo.fault_eq_code_iff (h : StepsTo .main s t) (idle : s.ms = .idle) (at_ : s.fetch = some w) :
    t.fault = c.code ↔ s.raisesAt w c := by
  refine ⟨fun faulted => ?_, fun raises => ?_⟩
  · obtain keeps | ⟨-, -, v, d, at_v, raises, rfl⟩ := h.effect.fault_cases
    · obtain ⟨unfaulted, -⟩ := State.enabled_main_iff.1 h.1
      exact absurd (faulted.symm.trans (keeps.trans unfaulted)) c.code_ne_zero
    · obtain rfl : v = w := Option.some.inj (at_v.symm.trans at_)
      obtain rfl : d = c := FaultCode.code_injective faulted
      exact raises
  · cases (Effect.of_raisesAt idle at_ raises).agentStep_eq.symm.trans h.2
    rfl

/-- Settles O43: MAIN steps from `FAULT` 0, so a code in `FAULT` is the table's, and the fault moves neither `CP` nor
the stream. -/
theorem faultCodesAreRaisedAsTheTableSays : Obligations.FaultCodesAreRaisedAsTheTableSays := by
  intro s t h
  obtain ⟨unfaulted, -⟩ := State.enabled_main_iff.1 h.1
  have outcome := h.effect.fault_cases
  rw [unfaulted] at outcome
  refine ⟨fun wait => outcome.resolve_right fun ⟨_, idle, _⟩ => wait idle, fun w idle at_ =>
    ⟨h.fault_eq_code_iff (c := .illegalCommand) idle at_, h.fault_eq_code_iff (c := .undefinedQuery) idle at_,
      h.fault_eq_code_iff (c := .illegalTransition) idle at_, ?code, fun faulted => ?word⟩⟩
  case code =>
    obtain stays | ⟨-, -, v, c, -, raises, rfl⟩ := outcome
    · exact .inl stays
    cases c with
    | illegalCommand => exact .inr (.inl rfl)
    | undefinedQuery => exact .inr (.inr (.inl rfl))
    | illegalTransition => exact .inr (.inr (.inr rfl))
    | handlerNoAck => exact raises.elim
  case word =>
    obtain ⟨-, -, v, c, -, -, rfl⟩ := outcome.resolve_left faulted
    exact at_

/-! ### From the fault on -/

/-- TIMER, HANDLER and OSC write none of MAIN's fields. -/
theorem Effect.keepsMain_of_ne_main (h : Effect s a t) (other : a ≠ .main) : KeepsMain s t := by
  cases h
  case timerCounts | timerRolls | handler | osc => exact ⟨rfl, rfl, rfl, rfl, rfl⟩
  all_goals exact absurd rfl other

theorem State.enabled_main_of_faulted (faulted : s.fault ≠ 0) : s.enabled .main = false := by
  refine Bool.eq_false_iff.2 fun enabled => ?_
  obtain ⟨unfaulted, -⟩ := State.enabled_main_iff.1 enabled
  exact faulted unfaulted

/-- From a fault on, the agents that still step leave MAIN's fields alone over every run (60_exceptions.md rule R92). -/
theorem runAgents_keepsMain_of_faulted {l : List Agent} (faulted : s.fault ≠ 0) (run : runAgents l s = some t) :
    KeepsMain s t := by
  induction l generalizing s with
  | nil => cases run; exact ⟨rfl, rfl, rfl, rfl, rfl⟩
  | cons a rest ih =>
    obtain ⟨u, first, rest_run⟩ := runAgents_cons.1 run
    have other : a ≠ .main := by
      rintro rfl
      simpa [State.enabled_main_of_faulted faulted] using first.1
    obtain ⟨lc, ms, cp, res, fault⟩ := first.effect.keepsMain_of_ne_main other
    obtain ⟨lc', ms', cp', res', fault'⟩ := ih (fault ▸ faulted) rest_run
    exact ⟨lc'.trans lc, ms'.trans ms, cp'.trans cp, res'.trans res, fault'.trans fault⟩

/-- Settles O44: a change of `FAULT` is MAIN's fault, MAIN needs `FAULT` 0 to step and to have ended, and no other
agent's enabling reads it. -/
theorem faultStopsMainForGood : Obligations.FaultStopsMainForGood := by
  refine ⟨fun a s t h changed => ?_, fun s faulted => ⟨State.enabled_main_of_faulted faulted, ?_⟩,
    fun l s t faulted run => ?_, fun a s c other => ?_, fun s d => rfl⟩
  · obtain keeps | ⟨rfl, -, w, c, -, -, rfl⟩ := h.effect.fault_cases
    · exact absurd keeps changed
    · obtain ⟨unfaulted, -⟩ := State.enabled_main_iff.1 h.1
      exact ⟨rfl, unfaulted, rfl⟩
  · have not_zero : (s.fault == 0) = false := beq_eq_false_iff_ne.2 faulted
    rw [State.ended, not_zero, Bool.and_false]
  · obtain ⟨lc, ms, cp, res, fault⟩ := runAgents_keepsMain_of_faulted faulted run
    exact ⟨fault, cp, ms, res, lc⟩
  · cases a with
    | main => exact absurd rfl other
    | timer | handler | osc => rfl

end Sys2Proof.Machine

/-! # The encoding and the opcode table

The decoder against the encoder and against the rows of spec/opcode_table.json (30_encoding.md rules R47 to R50). A
row admits exactly the encodings of the commands with its mnemonic; what the table says of a word is read off that. -/

namespace Sys2Proof

variable {w : CommandWord}

/-- A word decodes to a command exactly when it is the command's encoding. -/
theorem decode_eq_ok_iff {i : Instr} : decode w = .ok i ↔ w = encode i :=
  ⟨eq_encode_of_decode, fun word => word ▸ decode_encode i⟩

/-- A word without reserved bits is its operand above its opcode (30_encoding.md rule R47). -/
theorem wordOf_rsvd_zero (op : BitVec 8) (arg : Word) :
    wordOf { op := op, rsvd := 0, arg := arg } = arg ++ op.setWidth 32 := by
  ext k hk
  simp [wordOf]
  grind

/-- A row whose mask has every bit admits its pattern alone. -/
theorem admits_full_mask {m : String} {p : CommandWord} :
    (OpcodeRow.mk m p 0xFFFFFFFFFFFFFFFF).admits w = true ↔ w = p := by
  have full : (0xFFFFFFFFFFFFFFFF : CommandWord) = BitVec.allOnes 64 := by decide
  rw [OpcodeRow.admits, full, BitVec.and_allOnes, beq_iff_eq]

/-- A row whose mask leaves out `ARG` admits the words of its opcode with every operand (30_encoding.md rule R48). -/
theorem admits_operand_mask {m : String} {op : BitVec 8} :
    (OpcodeRow.mk m (op.setWidth 64) 0x00000000FFFFFFFF).admits w = true ↔
      ∃ arg, w = wordOf { op := op, rsvd := 0, arg := arg } := by
  have low : w &&& 0x00000000FFFFFFFF = op.setWidth 64 ↔ (fieldsOf w).rsvd = 0 ∧ (fieldsOf w).op = op := by
    have masked : (w &&& 0x00000000FFFFFFFF).toNat = w.toNat % 2 ^ 32 := Nat.and_two_pow_sub_one_eq_mod w.toNat 32
    rw [← BitVec.toNat_inj, masked]
    simp only [fieldsOf, ← BitVec.toNat_inj, BitVec.extractLsb'_toNat, BitVec.toNat_setWidth,
      Nat.shiftRight_eq_div_pow, show (0 : BitVec 24).toNat = 0 from rfl]
    omega
  rw [OpcodeRow.admits, beq_iff_eq, low]
  refine ⟨fun ⟨rsvd, op_eq⟩ => ⟨(fieldsOf w).arg, ?_⟩, ?_⟩
  · rw [← rsvd, ← op_eq]
    exact (wordOf_fieldsOf w).symm
  · rintro ⟨arg, rfl⟩
    simp [fieldsOf_wordOf]

/-- Every mnemonic is a row's. -/
theorem exists_row_of_mnemonic (i : Instr) : ∃ r ∈ opcodeTable, r.mnemonic = i.mnemonic := by
  cases i <;> simp [opcodeTable, Instr.mnemonic]

/-- No two rows share a mnemonic. -/
theorem row_eq_of_mnemonic_eq {r q : OpcodeRow} (row_r : r ∈ opcodeTable) (row_q : q ∈ opcodeTable)
    (same : r.mnemonic = q.mnemonic) : r = q := by
  have distinct : ∀ r ∈ opcodeTable, ∀ q ∈ opcodeTable, r.mnemonic = q.mnemonic → r = q := by decide
  exact distinct r row_r q row_q same

/-- A row admits the encodings of the commands with its mnemonic, and no other word (30_encoding.md rule R50). -/
theorem admits_iff_encode {r : OpcodeRow} (row : r ∈ opcodeTable) :
    r.admits w = true ↔ ∃ i : Instr, w = encode i ∧ i.mnemonic = r.mnemonic := by
  have bare {m : String} {i : Instr} (only : ∀ j : Instr, j.mnemonic = m ↔ j = i) :
      (OpcodeRow.mk m (encode i) 0xFFFFFFFFFFFFFFFF).admits w = true ↔
        ∃ j : Instr, w = encode j ∧ j.mnemonic = m := by
    rw [admits_full_mask]
    simp only [only, exists_eq_right]
  have delay {m : String} {op : BitVec 8} (make : Word → Instr)
      (word : ∀ d, encode (make d) = wordOf { op := op, rsvd := 0, arg := d })
      (only : ∀ j : Instr, j.mnemonic = m ↔ ∃ d, j = make d) :
      (OpcodeRow.mk m (op.setWidth 64) 0x00000000FFFFFFFF).admits w = true ↔
        ∃ j : Instr, w = encode j ∧ j.mnemonic = m := by
    rw [admits_operand_mask]
    simp only [only, ← word]
    exact ⟨fun ⟨d, eq⟩ => ⟨_, eq, d, rfl⟩, fun ⟨_, eq, d, made⟩ => ⟨d, made ▸ eq⟩⟩
  simp only [opcodeTable, List.mem_cons, List.not_mem_nil, or_false] at row
  obtain rfl | rfl | rfl | rfl | rfl | rfl | rfl | rfl | rfl := row
  · exact bare (i := .init) (by rintro ⟨⟩ <;> simp [Instr.mnemonic])
  · exact bare (i := .deinit) (by rintro ⟨⟩ <;> simp [Instr.mnemonic])
  · exact bare (i := .reset) (by rintro ⟨⟩ <;> simp [Instr.mnemonic])
  · exact bare (i := .suspend) (by rintro ⟨⟩ <;> simp [Instr.mnemonic])
  · exact bare (i := .resume) (by rintro ⟨⟩ <;> simp [Instr.mnemonic])
  · exact bare (i := .millis) (by rintro ⟨⟩ <;> simp [Instr.mnemonic])
  · exact bare (i := .micros) (by rintro ⟨⟩ <;> simp [Instr.mnemonic])
  · exact delay (op := opcodeOf (.delayMs 0)) .delayMs (fun _ => rfl) (by rintro ⟨⟩ <;> simp [Instr.mnemonic])
  · exact delay (op := opcodeOf (.delayUs 0)) .delayUs (fun _ => rfl) (by rintro ⟨⟩ <;> simp [Instr.mnemonic])

/-! ### The obligations -/

/-- Settles O6: laying the command's fields out and taking them apart again loses none of them. -/
theorem decodeOfEncodeIsTheCommand : Obligations.DecodeOfEncodeIsTheCommand :=
  decode_encode

/-- Settles O7: the fields the decoder accepts are those the encoder lays out. -/
theorem legalWordIsItsCommandsEncoding : Obligations.LegalWordIsItsCommandsEncoding :=
  fun _ _ => eq_encode_of_decode

/-- Settles O8: a row admits its mnemonic's encodings, every command has a row, and no mnemonic has two. -/
theorem opcodeTableAgreesWithTheDecoder : Obligations.OpcodeTableAgreesWithTheDecoder := by
  refine ⟨fun w r row => ?_, fun w r q row_r row_q admits_r admits_q => ?_, fun w => ⟨?_, fun none_admits => ?_⟩⟩
  · simp only [admits_iff_encode row, decode_eq_ok_iff]
  · obtain ⟨i, rfl, mnemonic_r⟩ := (admits_iff_encode row_r).1 admits_r
    obtain ⟨j, same, mnemonic_q⟩ := (admits_iff_encode row_q).1 admits_q
    obtain rfl := encode_inj.1 same
    exact row_eq_of_mnemonic_eq row_r row_q (mnemonic_r.symm.trans mnemonic_q)
  · rintro ⟨e, bad⟩ r row
    refine Bool.eq_false_iff.2 fun admitted => ?_
    obtain ⟨i, rfl, -⟩ := (admits_iff_encode row).1 admitted
    simp at bad
  · cases decoded : decode w with
    | error e => exact ⟨e, rfl⟩
    | ok i =>
      obtain ⟨r, row, mnemonic⟩ := exists_row_of_mnemonic i
      have admitted := (admits_iff_encode row).2 ⟨i, eq_encode_of_decode decoded, mnemonic.symm⟩
      simp [none_admits r row] at admitted

/-- Settles O10: the eight vectors, evaluated. -/
theorem writtenOutWordsDecode : Obligations.WrittenOutWordsDecode := by
  unfold Obligations.WrittenOutWordsDecode
  decide

end Sys2Proof

/-! # Power-on and the invariant

The invariant holds at power-on and every agent's step keeps it (10_state.md rules R34 and R35). It is two facts: the
control bits fit `LC`, and MAIN's wait fits the rest of the state; each is kept by its own case analysis of a step. -/

namespace Sys2Proof.Machine

variable {a : Agent} {s t : State}

/-! ### The invariant as two facts -/

/-- The control bits are those of the lifecycle state: (I-U), (I-R) and (I-S) of 10_state.md rule R34. -/
def State.controlFits (s : State) : Prop :=
  match s.lc with
  | .uninitialized => s.clken = false ∧ s.irqen = false
  | .running => s.cfg = true ∧ s.ie = true ∧ s.cnten = true ∧ s.clken = true ∧ s.irqen = true ∧ s.oscen = true ∧
      s.oscrdy = true
  | .suspended => s.cfg = true ∧ s.ie = true ∧ s.clken = true ∧ s.irqen = true ∧ s.oscen = true ∧
      s.oscrdy = true ∧ s.cnten = false

/-- What MAIN's wait needs of the state: (I-W) and (I-D) of 10_state.md rule R34, and an unfaulted command of the
stream; the wait of `INIT` stands on its reset action. -/
def State.waitFits (s : State) : Prop :=
  match s.ms with
  | .idle => True
  | .waitOsc => s.lc = .uninitialized ∧ s.oscen = true ∧ s.timebaseZero ∧ s.cp < s.stream.length ∧ s.fault = 0
  | .waitMs _ _ | .waitUs _ _ => s.lc ≠ .uninitialized ∧ s.cp < s.stream.length ∧ s.fault = 0

/-- (I-C) follows from the control bits alone. -/
theorem State.controlFits.counting_iff (control : s.controlFits) : s.counting = true ↔ s.lc = .running := by
  unfold State.controlFits at control
  split at control <;> simp [State.counting, *]

theorem Lifecycle.ne_uninitialized_iff {lc : Lifecycle} : lc ≠ .uninitialized ↔ lc = .running ∨ lc = .suspended := by
  cases lc <;> simp

theorem State.inv_iff : s.Inv ↔ s.controlFits ∧ s.waitFits := by
  refine ⟨fun inv => ⟨?_, ?_⟩, fun ⟨control, wait⟩ => ?_⟩
  · unfold State.controlFits
    split
    next lc => exact inv.unclocked lc
    next lc => exact inv.running lc
    next lc => exact inv.suspended lc
  · have delay {start d : Word} (waits : s.ms = .waitMs start d ∨ s.ms = .waitUs start d) :
        s.lc ≠ .uninitialized ∧ s.cp < s.stream.length ∧ s.fault = 0 := by
      have busy : s.ms ≠ .idle := by rcases waits with ms | ms <;> simp [ms]
      exact ⟨Lifecycle.ne_uninitialized_iff.2 (inv.delayWait start d waits), inv.waitsInStream busy,
        inv.waitsUnfaulted busy⟩
    unfold State.waitFits
    split
    next => trivial
    next ms =>
      exact ⟨inv.oscWait ms, inv.oscRequested ms, inv.oscWaitZero ms, inv.waitsInStream (by simp [ms]),
        inv.waitsUnfaulted (by simp [ms])⟩
    next ms => exact delay (.inl ms)
    next ms => exact delay (.inr ms)
  · have counts := control.counting_iff
    unfold State.controlFits at control
    unfold State.waitFits State.timebaseZero at wait
    rw [Lifecycle.ne_uninitialized_iff] at wait
    constructor
    case counts => exact counts
    case unclocked | running | suspended => intro lc; simpa [lc] using control
    case delayWait => rintro start d (ms | ms) <;> simp_all
    case waitsInStream | waitsUnfaulted => intro busy; split at wait <;> simp_all
    case oscWait | oscRequested | oscWaitZero => intro ms; simp_all

/-! ### Every step keeps it -/

/-- The control bits fit `LC` after a step: a command that writes some of them writes `LC` or leaves the others as the
old `LC` has them (43_lifecycle.md rules R82 to R88). -/
theorem Effect.controlFits (h : Effect s a t) (inv : s.Inv) : t.controlFits := by
  have control := (State.inv_iff.1 inv).1
  cases h
  case deinit => exact ⟨rfl, rfl⟩
  case initStarts rdy => exact ⟨rfl, rfl, rfl, rfl, rfl, rfl, rdy⟩
  case oscPollStarts wait rdy => exact ⟨rfl, rfl, rfl, rfl, rfl, inv.oscRequested wait, rdy⟩
  case suspend lc =>
    obtain ⟨cfg, ie, -, clken, irqen, oscen, oscrdy⟩ := inv.running lc
    exact ⟨cfg, ie, clken, irqen, oscen, oscrdy, rfl⟩
  case resume lc =>
    obtain ⟨cfg, ie, clken, irqen, oscen, oscrdy, -⟩ := inv.suspended lc
    exact ⟨cfg, ie, rfl, clken, irqen, oscen, oscrdy⟩
  case initWaits | osc => unfold State.controlFits at *; split <;> simp_all
  all_goals exact control

/-- Outside MAIN's fields the wait reads `OSCEN`, the stream, and in Uninitialized the timebase. -/
theorem State.waitFits.of_keepsMain (wait : s.waitFits) (main : KeepsMain s t) (oscen : t.oscen = s.oscen)
    (stream : t.stream = s.stream) (timebase : s.lc = .uninitialized → KeepsTimebase s t) : t.waitFits := by
  obtain ⟨lc, ms, cp, -, fault⟩ := main
  unfold State.waitFits State.timebaseZero at *
  rw [ms, lc, cp, stream, fault, oscen]
  split
  next => trivial
  next ms =>
    rw [ms] at wait
    obtain ⟨uptime, tick, pef, cmf, lost⟩ := timebase wait.1
    rwa [uptime, tick, pef, cmf, lost]
  next ms => rwa [ms] at wait
  next ms => rwa [ms] at wait

/-- The timer and its handler step only in Running (10_state.md rules R33 and R34). -/
theorem State.Inv.running_of_enabled (inv : s.Inv) (who : a = .timer ∨ a = .handler) (enabled : s.enabled a = true) :
    s.lc = .running := by
  have bits : s.clken = true ∧ s.cnten = true := by
    rcases who with rfl | rfl
    · obtain ⟨clken, cnten, -⟩ := State.enabled_timer_iff.1 enabled
      exact ⟨clken, cnten⟩
    · obtain ⟨-, -, -, clken, cnten⟩ := State.enabled_handler_iff.1 enabled
      exact ⟨clken, cnten⟩
  cases lc : s.lc with
  | uninitialized => simp [(inv.unclocked lc).1] at bits
  | running => rfl
  | suspended =>
    obtain ⟨-, -, -, -, -, -, cnten⟩ := inv.suspended lc
    simp [cnten] at bits

/-- The wait fits after a step: a new wait is entered by an enabled MAIN from the lifecycle state it needs, and
whoever steps during a wait leaves it what it needs. -/
theorem StepsTo.waitFits (h : StepsTo a s t) (inv : s.Inv) : t.waitFits := by
  have wait := (State.inv_iff.1 inv).2
  have ready : a = .main → s.cp < s.stream.length ∧ s.fault = 0 := by
    rintro rfl
    exact (State.enabled_main_iff.1 h.1).symm
  have ticking (who : a = .timer ∨ a = .handler) : s.lc ≠ .uninitialized := by
    simp [inv.running_of_enabled who h.1]
  have idle_fits {u : State} (idle : u.ms = .idle) : u.waitFits := by
    simp [State.waitFits, idle]
  cases h.effect
  case timerCounts | timerRolls =>
    exact wait.of_keepsMain ⟨rfl, rfl, rfl, rfl, rfl⟩ rfl rfl fun uninit => absurd uninit (ticking (.inl rfl))
  case handler =>
    exact wait.of_keepsMain ⟨rfl, rfl, rfl, rfl, rfl⟩ rfl rfl fun uninit => absurd uninit (ticking (.inr rfl))
  case osc =>
    exact wait.of_keepsMain ⟨rfl, rfl, rfl, rfl, rfl⟩ rfl rfl fun _ => ⟨rfl, rfl, rfl, rfl, rfl⟩
  case illegal idle _ _ | undefinedQuery idle _ _ _ _ | illegalTransition idle _ _ _ => exact idle_fits idle
  case delayMsWaits lc | delayUsWaits lc => exact ⟨lc, ready rfl⟩
  case initWaits rdy =>
    have uninit : s.lc = .uninitialized := by
      by_contra lc
      simp [inv.oscrdy_of_ne_uninitialized lc] at rdy
    exact ⟨uninit, rfl, ⟨rfl, rfl, rfl, rfl, rfl⟩, ready rfl⟩
  case oscPollHolds | msPollHolds | usPollHolds => exact wait
  all_goals exact idle_fits rfl

theorem StepsTo.inv (h : StepsTo a s t) (inv : s.Inv) : t.Inv :=
  State.inv_iff.2 ⟨h.effect.controlFits inv, h.waitFits inv⟩

/-! ### Over runs -/

/-- What every step of the agents of a run keeps holds at its end. -/
theorem runAgents_preserves {P : State → Prop} {l : List Agent}
    (kept : ∀ a ∈ l, ∀ s t, P s → StepsTo a s t → P t) (start : P s) (run : runAgents l s = some t) : P t := by
  induction l generalizing s with
  | nil => cases run; exact start
  | cons a rest ih =>
    obtain ⟨u, first, rest_run⟩ := runAgents_cons.1 run
    exact ih (fun b mem => kept b (List.mem_cons_of_mem a mem)) (kept a List.mem_cons_self s u start first) rest_run

theorem runAgents_inv {l : List Agent} (inv : s.Inv) (run : runAgents l s = some t) : t.Inv :=
  runAgents_preserves (fun _ _ _ _ inv h => h.inv inv) inv run

theorem State.powerOn_inv (d : PowerOn) (stream : List CommandWord) : (State.powerOn d stream).Inv :=
  State.inv_iff.2 ⟨⟨rfl, rfl⟩, trivial⟩

/-- `State.reset` is a power-on, of the draws that are all 0 (log entries 3 and 4). -/
theorem State.reset_eq_powerOn :
    State.reset = State.powerOn ⟨0, 0, false, false, false, false, false, false, false⟩ [] := rfl

/-! ### The obligations -/

/-- Settles O4: the step is some agent's, and the invariant reads none of the model's own fields. -/
theorem invariantIsKeptByEveryStep : Obligations.InvariantIsKeptByEveryStep := by
  intro s t inv h
  obtain ⟨a, -, steps⟩ := step_next h
  have advanced : s.advance.Inv := State.inv_iff.2 ((State.inv_iff (s := s)).1 inv)
  exact steps.inv advanced

/-- Settles O5: the invariant over the run gives the six, and the request needs the two enables that only Running
has both. -/
theorem reachableStatesMeetTheInvariants : Obligations.ReachableStatesMeetTheInvariants := by
  intro d stream l s run
  have inv := runAgents_inv (State.powerOn_inv d stream) run
  exact ⟨inv.unclocked, inv.running, inv.suspended, inv.oscWait, inv.delayWait, inv.counts,
    inv.running_of_enabled (.inr rfl)⟩

/-- Settles O1: the power-on state is written out by the table, without the clock nothing counts or is requested, and
a power-on reset is that state over the stream at hand. -/
theorem powerOnFollowsTheTable : Obligations.PowerOnFollowsTheTable := by
  refine fun d stream => ⟨?_, fun s => ⟨rfl, rfl, rfl⟩⟩
  exact ⟨rfl, rfl, rfl, rfl, rfl, rfl, rfl, rfl, rfl, rfl, rfl, rfl, rfl, rfl, rfl, rfl, rfl, rfl, rfl,
    State.not_counting_nor_irq (.inl rfl)⟩

/-- Settles O2: no agent is enabled without a stream, a clock or a request. -/
theorem resetIsPowerOnWithZeroDraws : Obligations.ResetIsPowerOnWithZeroDraws :=
  ⟨State.reset_eq_powerOn, rfl⟩

/-- Settles O3: at power-on the clock is off and MAIN is idle. -/
theorem invariantHoldsAtPowerOn : Obligations.InvariantHoldsAtPowerOn :=
  ⟨State.powerOn_inv, State.reset_eq_powerOn ▸ State.powerOn_inv _ _⟩

end Sys2Proof.Machine

/-! # The step function

A step of the machine is the turn of the agent that the schedule names, or of one of the enabled ones (00_scope.md
rules R10 and R11; the schedule is the model's choice, log entry 1). -/

namespace Sys2Proof.Machine

variable {a : Agent} {s t : State}

/-! ### An enabled agent's turn answers -/

/-- Where an agent is enabled its step answers; MAIN at the end of the stream is the one step without an answer, and
it is not enabled there. -/
theorem State.exists_stepsTo (enabled : s.enabled a = true) : ∃ t, StepsTo a s t := by
  suffices answers : ∃ t, agentStep a s = .next t from answers.imp fun t h => ⟨enabled, h⟩
  cases a with
  | timer | handler | osc => exact ⟨_, rfl⟩
  | main =>
    cases ms : s.ms with
    | waitOsc | waitMs start d | waitUs start d => simp [agentStep, mainStep, ms]
    | idle =>
      obtain ⟨-, inside⟩ := State.enabled_main_iff.1 enabled
      have at_ : s.fetch = some s.stream[s.cp] := List.getElem?_eq_getElem inside
      cases decoded : decode s.stream[s.cp] with
      | error e => exact ⟨_, (Effect.illegal _ e ms at_ decoded).agentStep_eq⟩
      | ok i => rw [agentStep_main_of_fetch ms at_ decoded]; exact exec_answers i s

theorem runAgent_of_not_enabled (disabled : s.enabled a = false) : runAgent a s = .refused (.notEnabled a) := by
  simp [runAgent, disabled]

/-! ### The free choice -/

theorem State.mem_enabledAgents : a ∈ s.enabledAgents ↔ s.enabled a = true := by
  cases a <;> simp [State.enabledAgents]

/-- A choice answers where there is one, and answers one of the choices. -/
theorem pick_of_ne_nil {choices : List Agent} (some_choice : choices ≠ []) (n : Nat) :
    ∃ a ∈ choices, pick choices n = some a := by
  match choices with
  | [] => exact absurd rfl some_choice
  | [a] => exact ⟨a, List.mem_cons_self, rfl⟩
  | a :: b :: more =>
    have inside : n % (more.length + 2) < (a :: b :: more).length := Nat.mod_lt n (by omega)
    exact ⟨_, List.getElem_mem inside, List.getElem?_eq_getElem inside⟩

/-! ### Running a schedule -/

/-- What a step does depends on the schedule and the turn only by carrying them along. -/
def State.withOwn (s : State) (sched : List Agent) (turn : Nat) : State := { s with sched := sched, turn := turn }

theorem Effect.withOwn (h : Effect s a t) (sched : List Agent) (turn : Nat) :
    Effect (s.withOwn sched turn) a (t.withOwn sched turn) := by
  cases h with
  | timerCounts count => exact .timerCounts count
  | timerRolls roll => exact .timerRolls roll
  | handler => exact .handler
  | osc => exact .osc
  | illegal w e idle at_ bad => exact .illegal w e idle at_ bad
  | undefinedQuery w i idle at_ ok use lc => exact .undefinedQuery w i idle at_ ok use lc
  | illegalTransition w i idle at_ ok use => exact .illegalTransition w i idle at_ ok use
  | query w i v idle at_ ok use lc => exact .query w i v idle at_ ok use lc
  | delayOver w i idle at_ ok use lc => exact .delayOver w i idle at_ ok use lc
  | delayMsWaits w d idle at_ ok pos lc => exact .delayMsWaits w d idle at_ ok pos lc
  | delayUsWaits w d idle at_ ok pos lc => exact .delayUsWaits w d idle at_ ok pos lc
  | reset w idle at_ ok => exact .reset w idle at_ ok
  | deinit w idle at_ ok => exact .deinit w idle at_ ok
  | initStarts w idle at_ ok rdy => exact .initStarts w idle at_ ok rdy
  | initWaits w idle at_ ok rdy => exact .initWaits w idle at_ ok rdy
  | suspend w idle at_ ok lc => exact .suspend w idle at_ ok lc
  | resume w idle at_ ok lc => exact .resume w idle at_ ok lc
  | oscPollStarts wait rdy => exact .oscPollStarts wait rdy
  | oscPollHolds wait rdy => exact .oscPollHolds wait rdy
  | msPollOver start d wait met => exact .msPollOver start d wait met
  | msPollHolds start d wait met => exact .msPollHolds start d wait met
  | usPollOver start d wait met => exact .usPollOver start d wait met
  | usPollHolds start d wait met => exact .usPollHolds start d wait met

theorem State.withOwn_enabled (s : State) (sched : List Agent) (turn : Nat) (a : Agent) :
    (s.withOwn sched turn).enabled a = s.enabled a := by
  cases a <;> rfl

/-- No step writes the model's own fields. -/
theorem Effect.own (h : Effect s a t) : t.sched = s.sched ∧ t.turn = s.turn := by
  cases h <;> exact ⟨rfl, rfl⟩

theorem StepsTo.withOwn (h : StepsTo a s t) (sched : List Agent) (turn : Nat) :
    StepsTo a (s.withOwn sched turn) (t.withOwn sched turn) :=
  ⟨(s.withOwn_enabled sched turn a).trans h.1, (h.effect.withOwn sched turn).agentStep_eq⟩

/-- A step with a schedule and a turn is the same step with any others. -/
theorem stepsTo_withOwn_iff {u : State} {sched : List Agent} {turn : Nat} :
    StepsTo a (s.withOwn sched turn) u ↔ ∃ t, StepsTo a s t ∧ u = t.withOwn sched turn := by
  refine ⟨fun h => ⟨_, h.withOwn s.sched s.turn, ?_⟩, ?_⟩
  · obtain ⟨own_sched, own_turn⟩ := h.effect.own
    simp only [State.withOwn] at own_sched own_turn ⊢
    rw [← own_sched, ← own_turn]
  · rintro ⟨t, h, rfl⟩
    exact h.withOwn sched turn

/-- The machine over a schedule of agents goes where the agents go, from every count of turns. -/
theorem core_run_iff {l : List Agent} {s u : State} {turn : Nat} :
    Host.Core.run Sys2Proof.core l.length (s.withOwn l turn) = .next u ↔
      ∃ t, runAgents l s = some t ∧ u = t.withOwn [] (turn + l.length) := by
  induction l generalizing s turn with
  | nil =>
    refine ⟨fun run => ⟨s, rfl, ?_⟩, ?_⟩
    · cases run; rfl
    · rintro ⟨t, run, rfl⟩
      cases run; rfl
  | cons a rest ih =>
    have first : step (s.withOwn (a :: rest) turn) = runAgent a (s.withOwn rest (turn + 1)) :=
      step_of_sched rfl
    rw [List.length_cons, core_run_succ, first]
    cases outcome : runAgent a (s.withOwn rest (turn + 1)) with
    | next v =>
      obtain ⟨t, h, rfl⟩ := stepsTo_withOwn_iff.1 (runAgent_next.1 outcome)
      simp only [runAgents, runAgent_next.2 h, ih, Nat.add_right_comm, Nat.add_assoc]
    | fault r | refused r =>
      refine iff_of_false nofun ?_
      rintro ⟨v, run, -⟩
      obtain ⟨t, h, -⟩ := runAgents_cons.1 run
      simpa [outcome] using runAgent_next.2 (h.withOwn rest (turn + 1))

/-! ### A placed command -/

theorem tableWord_toNat (w : CommandWord) : tableWord 64 w.toNat = w := by
  rw [tableWord, Nat.mod_eq_of_lt w.isLt, BitVec.ofNat_toNat, BitVec.setWidth_eq]

theorem State.placeCommand_fetch (s : State) (w : CommandWord) : (s.placeCommand w).fetch = some w := by
  have before : (s.stream.take s.cp ++ List.replicate (s.cp - s.stream.length) 0).length = s.cp := by
    simp only [List.length_append, List.length_take, List.length_replicate]
    omega
  simp only [State.fetch, State.placeCommand]
  rw [List.getElem?_append_right before.le, before, Nat.sub_self]
  rfl

/-- A scheduled MAIN at a legal word executes its command (30_encoding.md rule R50). -/
theorem step_of_sched_main {rest : List Agent} {w : CommandWord} {i : Instr} (sched : s.sched = .main :: rest)
    (unfaulted : s.fault = 0) (idle : s.ms = .idle) (at_ : s.fetch = some w) (ok : decode w = .ok i) :
    step s = exec i (s.withOwn rest (s.turn + 1)) := by
  have advanced : s.advance = s.withOwn rest (s.turn + 1) := by
    rw [State.advance, sched]
    rfl
  have enabled : (s.withOwn rest (s.turn + 1)).enabled .main = true := State.enabled_main_of_fetch unfaulted at_
  rw [step_of_sched sched, advanced, runAgent, if_pos enabled]
  exact agentStep_main_of_fetch idle at_ ok

/-! ### The obligations -/

/-- Settles O14: the step is the turn of the next agent, which the model's own fields do not enable; and an enabled
agent's turn answers. -/
theorem stepIsOneEnabledAgentsStep : Obligations.StepIsOneEnabledAgentsStep := by
  refine ⟨fun s t h => ?_, fun a s rest enabled => ?_⟩
  · obtain ⟨a, -, steps⟩ := step_next h
    exact ⟨a, (s.advance_enabled a).symm.trans steps.1, steps⟩
  · obtain ⟨t, steps⟩ := State.exists_stepsTo ((s.withOwn_enabled rest (s.turn + 1) a).trans enabled)
    exact ⟨t, (step_of_sched rfl).trans (runAgent_next.2 steps), steps⟩

/-- Settles O15: a named agent's turn is refused where it is not enabled, and a free choice answers exactly where
there is an enabled agent, which it then is. -/
theorem stepStopsOnlyWithoutAnEnabledAgent : Obligations.StepStopsOnlyWithoutAnEnabledAgent := by
  refine ⟨fun s a rest sched disabled => ?_, fun s sched disabled => ?_, fun s a sched enabled => ?_⟩
  · rw [step_of_sched sched]
    exact runAgent_of_not_enabled ((s.advance_enabled a).trans disabled)
  · have no_choice : s.enabledAgents = [] :=
      List.eq_nil_iff_forall_not_mem.2 fun a mem => by simp [State.mem_enabledAgents, disabled] at mem
    simp [step, takeTurn, State.nextAgent, sched, no_choice, pick]
  · have some_choice : s.enabledAgents ≠ [] := List.ne_nil_of_mem (State.mem_enabledAgents.2 enabled)
    obtain ⟨b, mem, picked⟩ := pick_of_ne_nil some_choice (Config.freeChoice s.turn)
    obtain ⟨t, steps⟩ :=
      State.exists_stepsTo ((s.advance_enabled b).trans (State.mem_enabledAgents.1 mem))
    refine ⟨t, ?_⟩
    simp only [step, takeTurn, State.nextAgent, sched, picked]
    exact runAgent_next.2 steps

/-- Settles O16: each turn takes the schedule's head, and no step reads the rest of the schedule. -/
theorem schedulesRunAsTheirAgents : Obligations.SchedulesRunAsTheirAgents :=
  fun _ _ => ⟨fun t run => core_run_iff.2 ⟨t, run, rfl⟩, fun _ run => core_run_iff.1 run⟩

/-- Settles O13: MAIN's turn at a legal word executes its command; and the placed word is the one at `CP`. -/
theorem stepRunsTheFetchedCommand : Obligations.StepRunsTheFetchedCommand := by
  refine ⟨fun s rest w i sched unfaulted idle at_ ok => step_of_sched_main sched unfaulted idle at_ ok,
    fun s i => ⟨?_, s.placeCommand_fetch _⟩⟩
  rw [State.withFetchWord, tableWord_toNat]
  exact step_of_sched_main rfl rfl rfl (s.placeCommand_fetch _) (decode_encode i)

end Sys2Proof.Machine

/-! # Frames

What each command and each agent's step leaves unchanged, and who writes `TICK` and `PEF` (10_state.md rules R15 to
R17). Each frame is read off the next state that the command's or the agent's own lemma gives. -/

namespace Sys2Proof.Machine

variable {a : Agent} {i : Instr} {s t : State}

/-! ### The commands -/

/-- Settles O32: a use of the timebase faults in Uninitialized; elsewhere a query writes its answer, and a delay
completes or enters its wait. -/
theorem frameOfQueriesAndDelays : Obligations.FrameOfQueriesAndDelays := by
  intro i s t use h
  by_cases lc : s.lc = .uninitialized
  · cases (exec_use_of_uninitialized use lc).symm.trans h
    exact ⟨⟨rfl, rfl, rfl, rfl, rfl⟩, ⟨rfl, rfl, rfl, rfl, rfl, rfl, rfl⟩, ⟨rfl, rfl, rfl⟩, rfl, fun _ => rfl,
      fun allowed => absurd lc allowed, fun _ => ⟨rfl, rfl, rfl⟩⟩
  by_cases query : i = .millis ∨ i = .micros
  · obtain ⟨v, answers⟩ := exec_query_of_ne_uninitialized query lc
    cases answers.symm.trans h
    refine ⟨⟨rfl, rfl, rfl, rfl, rfl⟩, ⟨rfl, rfl, rfl, rfl, rfl, rfl, rfl⟩, ⟨rfl, rfl, rfl⟩, rfl, fun delay => ?_,
      fun _ => rfl, fun uninit => absurd uninit lc⟩
    obtain ⟨d, rfl⟩ | ⟨d, rfl⟩ := delay <;> simp at query
  · obtain first | ⟨w, -, first⟩ := exec_delay_of_ne_uninitialized ((or_assoc.2 use).resolve_left query) lc
    all_goals
      cases first.symm.trans h
      exact ⟨⟨rfl, rfl, rfl, rfl, rfl⟩, ⟨rfl, rfl, rfl, rfl, rfl, rfl, rfl⟩, ⟨rfl, rfl, rfl⟩, rfl, fun _ => rfl,
        fun _ => rfl, fun uninit => absurd uninit lc⟩

/-- What a transition keeps, and that it either faults and keeps the rest too, or starts at its source. -/
theorem transition_frame {source target : Lifecycle} {count : Bool} (h : transition source target count s = .next t) :
    (KeepsTimebase s t ∧ KeepsRun s t ∧ t.cfg = s.cfg ∧ t.ie = s.ie ∧ t.clken = s.clken ∧
      t.irqen = s.irqen ∧ t.oscen = s.oscen ∧ t.oscrdy = s.oscrdy ∧ t.res = s.res ∧
      (t.fault ≠ s.fault → t.cnten = s.cnten ∧ t.lc = s.lc ∧ t.ms = s.ms ∧ t.cp = s.cp)) ∧
    (s.lc = source → t.fault = s.fault) := by
  by_cases lc : s.lc = source
  · cases (transition_of_source lc _ _).symm.trans h
    exact ⟨⟨⟨rfl, rfl, rfl, rfl, rfl⟩, ⟨rfl, rfl, rfl⟩, rfl, rfl, rfl, rfl, rfl, rfl, rfl,
      fun faulted => absurd rfl faulted⟩, fun _ => rfl⟩
  · cases (transition_of_ne_source lc _ _).symm.trans h
    exact ⟨⟨⟨rfl, rfl, rfl, rfl, rfl⟩, ⟨rfl, rfl, rfl⟩, rfl, rfl, rfl, rfl, rfl, rfl, rfl,
      fun _ => ⟨rfl, rfl, rfl, rfl⟩⟩, fun at_source => absurd at_source lc⟩

/-- Settles O33: `RESET` and `DEINIT` have one next state each, `INIT` one for each value of `OSCRDY`, and `SUSPEND`
and `RESUME` are transitions. -/
theorem frameOfLifecycleCommands : Obligations.FrameOfLifecycleCommands := by
  refine fun s t => ⟨fun h => ?_, fun h => ?_, fun h => ?_, fun h => ?_, fun h => (transition_frame h).2,
    fun h => (transition_frame h).2⟩
  · cases h
    exact ⟨⟨rfl, rfl, rfl, rfl, rfl, rfl, rfl⟩, ⟨rfl, rfl, rfl⟩, rfl, rfl, rfl⟩
  · obtain rdy | rdy := s.oscrdy.eq_false_or_eq_true
    · cases (execInit_of_ready rdy).symm.trans h
      exact ⟨⟨rfl, rfl, rfl⟩, rfl, rfl, rfl, fun down => by simp [rdy] at down⟩
    · cases (execInit_of_not_ready rdy).symm.trans h
      exact ⟨⟨rfl, rfl, rfl⟩, rfl, rfl, rfl, fun _ => ⟨rfl, rfl, rfl, rfl, rfl, rfl, rfl⟩⟩
  · cases h
    exact ⟨⟨rfl, rfl, rfl⟩, rfl, rfl, rfl, rfl, rfl, rfl, rfl⟩
  · obtain h | h := h
    · exact (transition_frame h).1
    · exact (transition_frame h).1

/-! ### The agents that run on their own -/

/-- Settles O34: a tick is a rollover or a count, and the other two steps are the model's own. -/
theorem frameOfAgentSteps : Obligations.FrameOfAgentSteps := by
  refine fun s t => ⟨fun h => ?_, fun h => ?_, fun h => ?_⟩
  · cases agentStep_effect h <;>
      exact ⟨⟨rfl, rfl, rfl, rfl, rfl⟩, ⟨rfl, rfl, rfl, rfl, rfl, rfl, rfl⟩, ⟨rfl, rfl, rfl⟩, rfl, rfl⟩
  · cases h
    exact ⟨⟨rfl, rfl, rfl, rfl, rfl⟩, ⟨rfl, rfl, rfl, rfl, rfl, rfl, rfl⟩, ⟨rfl, rfl, rfl⟩, rfl, rfl⟩
  · cases h
    exact ⟨⟨rfl, rfl, rfl, rfl, rfl⟩, ⟨rfl, rfl, rfl, rfl, rfl⟩, ⟨rfl, rfl, rfl⟩, rfl, rfl, rfl, rfl, rfl, rfl⟩

/-! ### Who writes `TICK` and `PEF` -/

theorem StepsTo.tickInPeriod (h : StepsTo a s t) (inPeriod : s.tickInPeriod) : t.tickInPeriod := by
  obtain ⟨-, rfl⟩ | ⟨-, rfl⟩ | ⟨-, -, -, tick, -⟩ | ⟨-, tick, -⟩ := h.timebase_cases
  · exact State.timerStep_tickInPeriod inPeriod
  · exact inPeriod
  · simp [State.tickInPeriod, tick]
  · rwa [State.tickInPeriod, tick]

/-- Settles O35: the reset action's tick is 0, a tick of the timer stays in the period, and without the clock the
timer, the one other writer, has no step. -/
theorem tickStaysInThePeriod : Obligations.TickStaysInThePeriod := by
  refine ⟨fun s => by simp [State.tickInPeriod], fun s t i resets h => ?_, fun a s t h => h.tickInPeriod,
    fun a s t inv uninit h no_reset => ?_⟩
  · obtain rfl | rfl | rfl := resets
    · obtain rdy | rdy := s.oscrdy.eq_false_or_eq_true
      · cases (execInit_of_ready rdy).symm.trans h; rfl
      · cases (execInit_of_not_ready rdy).symm.trans h; rfl
    · cases h; rfl
    · cases h; rfl
  · obtain ⟨rfl, -⟩ | ⟨-, rfl⟩ | ⟨main, reset, -⟩ | ⟨-, tick, -⟩ := h.timebase_cases
    · simp [inv.running_of_enabled (.inl rfl) h.1] at uninit
    · rfl
    · exact absurd ⟨main, reset⟩ no_reset
    · exact tick

/-- Settles O39: of the four things a step can do to the timebase the rollover alone sets `PEF`, and the service and
the reset action clear it. -/
theorem pendingFlagIsWrittenOnlyAtItsEvents : Obligations.PendingFlagIsWrittenOnlyAtItsEvents := by
  refine ⟨fun a s t h => ?_, fun s t h roll => ?_, fun s t h => ?_⟩
  · obtain ⟨rfl, rfl⟩ | ⟨rfl, rfl⟩ | ⟨rfl, reset, -, -, pef, -⟩ | ⟨-, -, pef, -⟩ := h.timebase_cases
    · by_cases roll : s.tick.toNat = Config.period - 1
      · rw [State.timerStep_of_rollover roll]
        exact .inr (.inl ⟨rfl, roll, rfl, rfl⟩)
      · rw [State.timerStep_of_count roll]
        exact .inl rfl
    · exact .inr (.inr (.inl ⟨rfl, rfl⟩))
    · exact .inr (.inr (.inr ⟨rfl, reset, pef⟩))
    · exact .inl pef
  · cases h.2
    rw [State.timerStep_of_rollover roll]
  · cases h.2
    have down : s.handlerStep.irq = false := by simp [State.irq]
    exact ⟨rfl, down, down⟩

end Sys2Proof.Machine

/-! # Time: the composed value and the periods

Every tick of the timer is in `TICK`, in the pending period, in a period `UPTIME` has counted, or in one `LOST` has
(40_tick_and_handler.md sections 1 and 4; 41_time_query.md section 2). That one balance, over a run without a reset
action, gives the counting law and the growth of the composed value. -/

namespace Sys2Proof.Machine

variable {a : Agent} {l : List Agent} {s t : State}

/-! ### The ticks `UPTIME` does not hold yet -/

/-- The ticks since the last period that `UPTIME` has counted: those of the period under way and of a pending one. -/
def State.uncounted (s : State) : Nat := s.tick.toNat + Config.period * s.pef.toNat

/-- The composed value is the counted periods and the uncounted ticks (41_time_query.md rule R71). -/
theorem State.snapshot_eq (s : State) :
    s.snapshot = s.uptime * BitVec.ofNat 32 Config.period + BitVec.ofNat 32 s.uncounted := by
  rw [State.snapshot_eq_ofNat, State.uncounted, Nat.add_mul, Nat.add_assoc, BitVec.ofNat_add, BitVec.ofNat_mul,
    BitVec.ofNat_toNat, BitVec.setWidth_eq, Nat.add_comm (s.tick.toNat), Nat.mul_comm Config.period]

theorem State.snapshot_of_keepsTimebase (keeps : KeepsTimebase s t) : t.snapshot = s.snapshot := by
  obtain ⟨uptime, tick, pef, -⟩ := keeps
  rw [State.snapshot, uptime, tick, pef, State.snapshot]

/-- A tick is one more of the uncounted ones, or a period more of the lost ones. -/
theorem State.timerStep_balance (inPeriod : s.tickInPeriod) :
    s.timerStep.uncounted + Config.period * s.timerStep.lost = s.uncounted + 1 + Config.period * s.lost := by
  by_cases roll : s.tick.toNat = Config.period - 1
  · simp only [State.timerStep_of_rollover roll, State.uncounted, roll, Config.period, Bool.toNat_true,
      show (0 : Tick).toNat = 0 from rfl]
    omega
  · rw [State.timerStep_of_count roll]
    have next : (s.tick + 1).toNat = s.tick.toNat + 1 := by
      simp only [State.tickInPeriod, Config.period] at *
      bv_omega
    simp only [State.uncounted, next]
    omega

/-- A service counts the pending period. -/
theorem State.handlerStep_uncounted (pending : s.pef = true) :
    s.handlerStep.uncounted + Config.period = s.uncounted := by
  simp [State.uncounted, pending]

/-- A service keeps the composed value: its period moves into `UPTIME` (41_time_query.md rule R73). -/
theorem State.handlerStep_snapshot (pending : s.pef = true) : s.handlerStep.snapshot = s.snapshot := by
  rw [State.snapshot_eq, State.snapshot_eq s, ← State.handlerStep_uncounted pending, BitVec.ofNat_add,
    State.handlerStep_uptime, BitVec.add_mul, one_mul]
  ac_rfl

/-! ### Runs without a reset action -/

theorem resetFree_cons (h : StepsTo a s t) :
    ResetFree (a :: l) s ↔ ¬ (a = .main ∧ s.atResetAction = true) ∧ ResetFree l t := by
  simp [ResetFree, runAgent_next.2 h]

/-- In a run without a reset action `UPTIME` counts the services (10_state.md rule R14). -/
theorem runAgents_uptime (run : runAgents l s = some t) (free : ResetFree l s) :
    t.uptime = s.uptime + BitVec.ofNat 32 (l.count .handler) := by
  induction l generalizing s with
  | nil => cases run; simp
  | cons a rest ih =>
    obtain ⟨u, first, rest_run⟩ := runAgents_cons.1 run
    obtain ⟨no_reset, rest_free⟩ := (resetFree_cons first).1 free
    rw [ih rest_run rest_free]
    cases a with
    | main =>
      obtain ⟨reset, -⟩ | ⟨-, uptime, -⟩ := first.effect.main_timebase
      · exact absurd ⟨rfl, reset⟩ no_reset
      · simp [uptime]
    | timer => cases first.2; simp
    | handler =>
      cases first.2
      rw [State.handlerStep_uptime, List.count_cons_self, Nat.add_comm, BitVec.ofNat_add, BitVec.add_assoc]
      rfl
    | osc => cases first.2; simp

/-- The balance of the ticks: those uncounted, counted by a service or lost at the end are those of the start and one
for each step of the timer. -/
theorem runAgents_balance (run : runAgents l s = some t) (free : ResetFree l s) (inPeriod : s.tickInPeriod) :
    t.uncounted + Config.period * (l.count .handler + t.lost) =
      s.uncounted + l.count .timer + Config.period * s.lost := by
  induction l generalizing s with
  | nil => cases run; simp
  | cons a rest ih =>
    obtain ⟨u, first, rest_run⟩ := runAgents_cons.1 run
    obtain ⟨no_reset, rest_free⟩ := (resetFree_cons first).1 free
    have rest_balance := ih rest_run rest_free (first.tickInPeriod inPeriod)
    cases a with
    | main =>
      obtain ⟨reset, -⟩ | ⟨-, -, tick, pef, -, lost⟩ := first.effect.main_timebase
      · exact absurd ⟨rfl, reset⟩ no_reset
      · simpa [State.uncounted, tick, pef, lost] using rest_balance
    | timer =>
      cases first.2
      have tick := State.timerStep_balance inPeriod
      simp only [List.count_cons_self, List.count_cons_of_ne (show Agent.timer ≠ .handler by decide)]
      omega
    | handler =>
      obtain ⟨pending, -⟩ := State.enabled_handler_iff.1 first.1
      cases first.2
      have service := State.handlerStep_uncounted pending
      rw [State.handlerStep_lost] at rest_balance
      rw [List.count_cons_self, List.count_cons_of_ne (by decide)]
      linarith
    | osc => cases first.2; simpa [State.uncounted] using rest_balance

/-! ### The composed value -/

/-- Settles O45: both queries answer outside Uninitialized, and the composed value is in numbers what the relation
says. -/
theorem queriesAgreeOnOneState : Obligations.QueriesAgreeOnOneState := by
  intro s lc
  have numbers : s.snapshot.toNat =
      (s.uptime.toNat * Config.period + s.pef.toNat * Config.period + s.tick.toNat) % 2 ^ 32 := by
    rw [State.snapshot_eq_ofNat, BitVec.toNat_ofNat, Nat.add_mul]
  refine ⟨s.answer s.uptime, s.answer s.snapshot, s.uptime, s.snapshot, guardQuery_of_ne_uninitialized lc _, rfl,
    guardQuery_of_ne_uninitialized lc _, rfl, numbers, fun inPeriod none_pending small => ?_, fun pending => ?_⟩
  · have below := State.tickInPeriod_iff.1 inPeriod
    rw [numbers, none_pending, Bool.toNat_false, Nat.zero_mul, Nat.add_zero, Nat.mod_eq_of_lt small]
    simp only [Config.period] at *
    omega
  · rw [State.snapshot, pending, compose, compose, flagWord, flagWord, if_pos rfl, if_neg (by decide),
      BitVec.add_mul, one_mul, add_zero]
    ac_rfl

/-- Settles O46: the tick's balance gives the timer's two cases, the service moves its period, and MAIN and OSC keep
the timebase or zero it. -/
theorem composedTimeChangesByTheStep : Obligations.ComposedTimeChangesByTheStep := by
  refine fun a s t inPeriod h => ⟨?_, ?_, ?_, ?_, ?_, ?_⟩
  · rintro rfl not_lost
    cases h.2
    have balance := State.timerStep_balance inPeriod
    rw [State.timerStep_lost, if_neg (by simpa [imp_iff_not_or] using not_lost)] at balance
    rw [State.snapshot_eq, State.snapshot_eq s, State.timerStep_uptime,
      show s.timerStep.uncounted = s.uncounted + 1 by omega, BitVec.ofNat_add, ← BitVec.add_assoc]
    rfl
  · rintro rfl roll pending
    cases h.2
    have balance := State.timerStep_balance inPeriod
    rw [State.timerStep_lost, if_pos ⟨roll, pending⟩] at balance
    have less : s.uncounted = s.timerStep.uncounted + (Config.period - 1) := by
      simp only [Config.period] at *
      omega
    rw [State.snapshot_eq, State.snapshot_eq s, State.timerStep_uptime, less, BitVec.ofNat_add, ← BitVec.add_assoc,
      BitVec.add_sub_cancel]
  · rintro rfl
    obtain ⟨pending, -⟩ := State.enabled_handler_iff.1 h.1
    cases h.2
    exact State.handlerStep_snapshot pending
  · rintro rfl
    cases h.2
    rfl
  · rintro rfl reset
    obtain ⟨uptime, tick, pef, -⟩ := h.timebaseZero reset
    rw [State.snapshot, uptime, tick, pef]
    decide
  · rintro rfl no_reset
    obtain ⟨reset, -⟩ | ⟨-, keeps⟩ := h.effect.main_timebase
    · simp [reset] at no_reset
    · exact State.snapshot_of_keepsTimebase keeps

/-- In a run without a reset action or a lost period the composed value counts the ticks (41_time_query.md rule
R73). -/
theorem runAgents_snapshot (run : runAgents l s = some t) (free : ResetFree l s) (inPeriod : s.tickInPeriod)
    (served : NoPeriodLost s t) : t.snapshot = s.snapshot + BitVec.ofNat 32 (l.count .timer) := by
  have balance := runAgents_balance run free inPeriod
  rw [NoPeriodLost] at served
  have ticks : t.uncounted + l.count .handler * Config.period = s.uncounted + l.count .timer := by
    rw [served] at balance
    linarith
  calc t.snapshot
      = s.uptime * BitVec.ofNat 32 Config.period
          + BitVec.ofNat 32 (t.uncounted + l.count .handler * Config.period) := by
        rw [State.snapshot_eq, runAgents_uptime run free, BitVec.add_mul, BitVec.ofNat_add, BitVec.ofNat_mul]
        ac_rfl
    _ = s.snapshot + BitVec.ofNat 32 (l.count .timer) := by
        rw [ticks, State.snapshot_eq s, BitVec.ofNat_add, BitVec.add_assoc]

/-- Settles O47: the growth of the composed value over such a run is its ticks. -/
theorem composedTimeCountsTheTicks : Obligations.ComposedTimeCountsTheTicks := by
  intro l s t inPeriod run free served
  rw [runAgents_snapshot run free inPeriod served, BitVec.add_comm, BitVec.add_sub_cancel]

/-- Settles O48: the last composed value before the wrap, evaluated, and the two steps after it. -/
theorem composedTimeCrossesTheCounterWrap : Obligations.ComposedTimeCrossesTheCounterWrap := by
  intro s uptime roll none_pending
  have tick : s.tick = 999 := BitVec.eq_of_toNat_eq roll
  have snapshot : s.snapshot = 0xFFFFFFFF := by
    rw [State.snapshot, uptime, tick, none_pending]
    decide
  have rolled : s.timerStep = { s with lost := s.lost + s.pef.toNat, tick := 0, pef := true } :=
    State.timerStep_of_rollover roll
  have pending : s.timerStep.pef = true := by rw [rolled]
  have zero : s.timerStep.snapshot = 0 := by
    rw [rolled]
    simp only [State.snapshot, uptime]
    decide
  have wraps : s.timerStep.handlerStep.uptime = 0 := by
    rw [State.handlerStep_uptime, State.timerStep_uptime, uptime]
    decide
  exact ⟨s.timerStep, s.timerStep.handlerStep, snapshot, rfl, pending, zero, rfl, wraps, rfl,
    (State.handlerStep_snapshot pending).trans zero⟩

/-! ### Periods -/

/-- Settles O50: with nothing pending and nothing lost the balance is `TICK` and whole periods. -/
theorem countingLaw : Obligations.CountingLaw := by
  intro l s t inPeriod none_before run free served none_after
  have periods : l.count .handler = (s.tick.toNat + l.count .timer) / Config.period := by
    have balance := runAgents_balance run free inPeriod
    have below := State.tickInPeriod_iff.1
      (runAgents_preserves (fun _ _ _ _ bound h => h.tickInPeriod bound) inPeriod run)
    rw [NoPeriodLost] at served
    simp only [State.uncounted, none_before, none_after, served, Bool.toNat_false, Config.period] at *
    omega
  exact ⟨periods ▸ runAgents_uptime run free, periods⟩

/-- A timer that counts takes its step. -/
theorem State.timer_stepsTo (counting : s.counting = true) (tick : s.timerStep = t) : StepsTo .timer s t :=
  ⟨counting, congrArg Host.Outcome.next tick⟩

/-- Ticks short of the rollover change `TICK` alone (40_tick_and_handler.md rule R57). -/
theorem runAgents_ticks (counting : s.counting = true) {n : Nat} (short : s.tick.toNat + n < Config.period) :
    runAgents (List.replicate n .timer) s = some { s with tick := s.tick + BitVec.ofNat 16 n } := by
  induction n generalizing s with
  | zero => simp [runAgents]
  | succ n ih =>
    have next : (s.tick + 1).toNat = s.tick.toNat + 1 := by
      simp only [Config.period] at short
      bv_omega
    refine runAgents_cons.2 ⟨_, State.timer_stepsTo counting (State.timerStep_of_count (by omega)),
      (ih ?_ ?_).trans ?_⟩
    · exact counting
    · simp only [next]
      omega
    · rw [Nat.add_comm n, BitVec.ofNat_add, ← BitVec.add_assoc]
      rfl

/-- A whole period of ticks, from any point of one, comes back to that point over one rollover
(40_tick_and_handler.md rule R60). -/
theorem runAgents_period (counting : s.counting = true) (inPeriod : s.tickInPeriod) :
    runAgents (List.replicate Config.period .timer) s =
      some { s with pef := true, lost := s.lost + s.pef.toNat } := by
  have below := State.tickInPeriod_iff.1 inPeriod
  have split : List.replicate Config.period Agent.timer =
      List.replicate (Config.period - 1 - s.tick.toNat) Agent.timer ++
        Agent.timer :: List.replicate s.tick.toNat Agent.timer := by
    rw [← List.replicate_succ, ← List.replicate_add]
    congr 1
    omega
  have last : (s.tick + BitVec.ofNat 16 (Config.period - 1 - s.tick.toNat)).toNat = Config.period - 1 := by
    simp only [Config.period] at *
    bv_omega
  have before := runAgents_ticks (n := Config.period - 1 - s.tick.toNat) counting (by omega)
  rw [split]
  refine runAgents_append.2 ⟨_, before, runAgents_cons.2
    ⟨_, State.timer_stepsTo ?_ (State.timerStep_of_rollover last), (runAgents_ticks ?_ ?_).trans ?_⟩⟩
  · exact counting
  · exact counting
  · simpa using below
  · simp

/-- Settles O49: ticks short of the rollover, and a whole period from any point of one. -/
theorem aPeriodIsExactlyPTicks : Obligations.APeriodIsExactlyPTicks := by
  refine ⟨fun s n counting start short => ?_, fun s counting inPeriod => runAgents_period counting inPeriod⟩
  rw [runAgents_ticks counting (by simpa [start] using short), start, zero_add]

/-- Whole periods of ticks without a service raise `PEF` and lose all periods but the pending one
(40_tick_and_handler.md rule R69). -/
theorem runAgents_periods (counting : s.counting = true) (inPeriod : s.tickInPeriod) (n : Nat) :
    runAgents (List.replicate ((n + 1) * Config.period) .timer) s =
      some { s with pef := true, lost := s.lost + s.pef.toNat + n } := by
  induction n with
  | zero => simpa using runAgents_period counting inPeriod
  | succ n ih =>
    rw [Nat.succ_mul, List.replicate_add]
    exact runAgents_append.2 ⟨_, ih, runAgents_period counting inPeriod⟩

/-- A pending period of an enabled block is served (40_tick_and_handler.md rules R61 and R62). -/
theorem State.handler_stepsTo (counting : s.counting = true) (requested : s.ie = true ∧ s.irqen = true)
    (pending : s.pef = true) : StepsTo .handler s s.handlerStep := by
  obtain ⟨ie, irqen⟩ := requested
  obtain ⟨clken, cnten, -⟩ := State.enabled_timer_iff.1 counting
  exact ⟨State.enabled_handler_iff.2 ⟨pending, ie, irqen, clken, cnten⟩, rfl⟩

/-- Ticks of whole periods and then the service. -/
theorem runAgents_periods_served (counting : s.counting = true) (requested : s.ie = true ∧ s.irqen = true)
    (inPeriod : s.tickInPeriod) (n : Nat) :
    runAgents (List.replicate ((n + 1) * Config.period) Agent.timer ++ [Agent.handler]) s =
      some { s with uptime := s.uptime + 1, pef := false, cmf := false, lost := s.lost + s.pef.toNat + n } := by
  have ticks := runAgents_periods counting inPeriod n
  refine runAgents_append.2 ⟨_, ticks, runAgents_cons.2 ⟨_, State.handler_stepsTo ?_ ?_ ?_, rfl⟩⟩
  · exact counting
  · exact requested
  · rfl

theorem State.Inv.requested_of_running (inv : s.Inv) (lc : s.lc = .running) : s.ie = true ∧ s.irqen = true := by
  obtain ⟨-, ie, -, -, irqen, -⟩ := inv.running lc
  exact ⟨ie, irqen⟩

theorem State.tickInPeriod_of_zero (start : s.tick = 0) : s.tickInPeriod := by
  simp [State.tickInPeriod, start]

/-- Periods each served before the next change `UPTIME` alone (40_tick_and_handler.md rule R68). -/
theorem runAgents_served_periods (counting : s.counting = true) (requested : s.ie = true ∧ s.irqen = true)
    (inPeriod : s.tickInPeriod) (none_pending : s.pef = false) (cmf : s.cmf = false) (n : Nat) :
    runAgents (List.replicate n (List.replicate Config.period Agent.timer ++ [Agent.handler])).flatten s =
      some { s with uptime := s.uptime + BitVec.ofNat 32 n } := by
  induction n generalizing s with
  | zero => simp [runAgents]
  | succ n ih =>
    have first := runAgents_periods_served counting requested inPeriod 0
    rw [Nat.zero_add, Nat.one_mul] at first
    rw [List.replicate_succ, List.flatten_cons]
    refine runAgents_append.2 ⟨_, first, (ih ?_ ?_ ?_ rfl rfl).trans ?_⟩
    · exact counting
    · exact requested
    · exact inPeriod
    · simp [none_pending, cmf, BitVec.ofNat_add, BitVec.add_assoc, BitVec.add_comm 1#32]

/-- Settles O51: the run of served periods, and the query's answer after it. -/
theorem servedPeriodsAdvanceTheCounter : Obligations.ServedPeriodsAdvanceTheCounter := by
  intro N s lc inv start none_pending cmf
  refine ⟨_, _, runAgents_served_periods (inv.counts.2 lc) (inv.requested_of_running lc)
    (State.tickInPeriod_of_zero start) none_pending cmf N, rfl, guardQuery_of_ne_uninitialized ?_ _, rfl⟩
  simp [lc]

/-- Settles O52: of the periods taken while one is pending the service counts one. -/
theorem lostPeriodsAreNeverCounted : Obligations.LostPeriodsAreNeverCounted := by
  intro N s lc inv start none_pending
  rw [runAgents_periods_served (inv.counts.2 lc) (inv.requested_of_running lc) (State.tickInPeriod_of_zero start)]
  simp [none_pending]

end Sys2Proof.Machine

/-! # Waits and the freeze, over runs

What a run does to a wait of MAIN, to a Suspended block and to the start of a block (42_delay.md section 3;
43_lifecycle.md sections 2 and 4; 70_reset_and_hazards.md section 2). -/

namespace Sys2Proof.Machine

variable {a : Agent} {l : List Agent} {i : Instr} {s t u v : State} {start d : Word}

/-! ### A wait over a step and over a run -/

/-- A step in a wait keeps the wait, or is the poll that completes the command (42_delay.md rule R78;
43_lifecycle.md rule R84). -/
theorem Effect.wait_cases (h : Effect s a t) (wait : s.ms ≠ .idle) :
    (t.ms = s.ms ∧ t.cp = s.cp ∧ t.lc = s.lc) ∨ (a = .main ∧ t.ms = .idle ∧ t.cp = s.cp + 1) := by
  cases h
  case oscPollStarts | msPollOver | usPollOver => exact .inr ⟨rfl, rfl, rfl⟩
  case timerCounts | timerRolls | handler | osc | oscPollHolds | msPollHolds | usPollHolds =>
    exact .inl ⟨rfl, rfl, rfl⟩
  all_goals exact absurd ‹s.ms = .idle› wait

/-- `CP` does not fall (10_state.md rule R32). -/
theorem runAgents_cp_le (run : runAgents l s = some t) : s.cp ≤ t.cp :=
  runAgents_preserves (P := fun u => s.cp ≤ u.cp)
    (fun _ _ _ _ bound h => by obtain ⟨-, cp, -⟩ | ⟨cp, -⟩ := h.effect.cp_cases <;> omega) le_rfl run

/-- A run over which `CP` stays on a waiting command stays in its wait, and so performs no reset action. -/
theorem runAgents_wait (wait : s.ms ≠ .idle) (run : runAgents l s = some t) (cp : t.cp = s.cp) :
    t.ms = s.ms ∧ ResetFree l s := by
  induction l generalizing s with
  | nil => cases run; exact ⟨rfl, trivial⟩
  | cons a rest ih =>
    obtain ⟨u, first, rest_run⟩ := runAgents_cons.1 run
    obtain ⟨ms, same, -⟩ | ⟨-, -, advanced⟩ := first.effect.wait_cases wait
    · obtain ⟨rest_ms, free⟩ := ih (ms ▸ wait) rest_run (cp.trans same.symm)
      refine ⟨rest_ms.trans ms, (resetFree_cons first).2 ⟨fun ⟨_, reset⟩ => ?_, free⟩⟩
      simp [State.atResetAction_of_wait wait] at reset
    · have := runAgents_cp_le rest_run
      omega

/-- A poll of `DELAY_MS` completes it exactly when the difference has reached `d` (42_delay.md rule R78). -/
theorem StepsTo.idle_iff_of_waitMs (h : StepsTo .main s t) (wait : s.ms = .waitMs start d) :
    t.ms = .idle ↔ d.toNat ≤ (s.uptime - start).toNat := by
  rw [← waitOver_iff]
  cases met : waitOver s.uptime start d with
  | true => cases (Effect.msPollOver start d wait met).agentStep_eq.symm.trans h.2; simp
  | false => cases (Effect.msPollHolds start d wait met).agentStep_eq.symm.trans h.2; simp [wait]

/-- A poll of `DELAY_US` does so too (42_delay.md rule R78). -/
theorem StepsTo.idle_iff_of_waitUs (h : StepsTo .main s t) (wait : s.ms = .waitUs start d) :
    t.ms = .idle ↔ d.toNat ≤ (s.snapshot - start).toNat := by
  rw [← waitOver_iff]
  cases met : waitOver s.snapshot start d with
  | true => cases (Effect.usPollOver start d wait met).agentStep_eq.symm.trans h.2; simp
  | false => cases (Effect.usPollHolds start d wait met).agentStep_eq.symm.trans h.2; simp [wait]

/-- In the wait of `DELAY_MS` from the present `UPTIME` that counter grows by the services alone, and a poll compares
that growth (42_delay.md rule R79). -/
theorem poll_of_delayMs (run : runAgents l s = some u) (cp : u.cp = s.cp) (wait : s.ms = .waitMs s.uptime d)
    (poll : StepsTo .main u v) : v.ms = .idle ↔ d.toNat ≤ l.count .handler % 2 ^ 32 := by
  obtain ⟨waits, free⟩ := runAgents_wait (by simp [wait]) run cp
  rw [poll.idle_iff_of_waitMs (waits.trans wait), runAgents_uptime run free]
  simp [BitVec.add_comm s.uptime]

/-- In the wait of `DELAY_US` from the present composed value that value grows by the ticks while no period is lost,
and a poll compares that growth (42_delay.md rule R79). -/
theorem poll_of_delayUs (run : runAgents l s = some u) (cp : u.cp = s.cp) (wait : s.ms = .waitUs s.snapshot d)
    (inPeriod : s.tickInPeriod) (served : NoPeriodLost s u) (poll : StepsTo .main u v) :
    v.ms = .idle ↔ d.toNat ≤ l.count .timer % 2 ^ 32 := by
  obtain ⟨waits, free⟩ := runAgents_wait (by simp [wait]) run cp
  rw [poll.idle_iff_of_waitUs (waits.trans wait), runAgents_snapshot run free inPeriod served]
  simp [BitVec.add_comm s.snapshot]

/-! ### The delays -/

/-- The wait `DELAY_MS` begins (42_delay.md rule R76). -/
theorem execDelayMs_waits (lc : s.lc ≠ .uninitialized) (pos : d ≠ 0) :
    exec (.delayMs d) s = .next { s with ms := .waitMs s.uptime d } := by
  rw [exec, execDelayMs, guardQuery_of_ne_uninitialized lc, State.beginDelay_eq, if_neg pos]

/-- The wait `DELAY_US` begins (42_delay.md rule R77). -/
theorem execDelayUs_waits (lc : s.lc ≠ .uninitialized) (pos : d ≠ 0) :
    exec (.delayUs d) s = .next { s with ms := .waitUs s.snapshot d } := by
  rw [exec, execDelayUs, guardQuery_of_ne_uninitialized lc, State.beginDelay_eq, if_neg pos]

/-- Settles O19: a delay's word, its guard, and the two sides of its first step. -/
theorem delayMsFirstStep : Obligations.DelayMsFirstStep := by
  refine fun d s => ⟨?_, fun lc zero => ?_, fun lc pos => execDelayMs_waits lc pos, fun lc =>
    guardQuery_of_uninitialized lc _⟩
  · exact decode_eq_ok_iff.2 (wordOf_rsvd_zero (opcodeOf (.delayMs d)) d).symm
  · rw [exec, execDelayMs, guardQuery_of_ne_uninitialized lc, State.beginDelay_eq, if_pos zero]
    rfl

/-- Settles O20: as for `DELAY_MS`, with the composed value in numbers as its start. -/
theorem delayUsFirstStep : Obligations.DelayUsFirstStep := by
  refine fun d s => ⟨?_, fun lc zero => ?_, fun lc pos => ?_, fun lc => guardQuery_of_uninitialized lc _⟩
  · exact decode_eq_ok_iff.2 (wordOf_rsvd_zero (opcodeOf (.delayUs d)) d).symm
  · rw [exec, execDelayUs, guardQuery_of_ne_uninitialized lc, State.beginDelay_eq, if_pos zero]
    rfl
  · rw [← s.snapshot_eq_ofNat]
    exact execDelayUs_waits lc pos

/-- Settles O54: the delay's wait starts from the `UPTIME` at hand. -/
theorem delayMsWaitsForItsPeriods : Obligations.DelayMsWaitsForItsPeriods := by
  intro l d s s1 u v h lc pos run cp poll
  cases (execDelayMs_waits lc pos).symm.trans h
  exact poll_of_delayMs run cp rfl poll

/-- Settles O55: the delay's wait starts from the composed value at hand. -/
theorem delayUsWaitsForItsTicks : Obligations.DelayUsWaitsForItsTicks := by
  intro l d s s1 u v inPeriod h lc pos run cp served poll
  cases (execDelayUs_waits lc pos).symm.trans h
  exact poll_of_delayUs run cp rfl inPeriod served poll

/-! ### The freeze -/

/-- With the counter off and the oscillator ready MAIN alone can step (40_tick_and_handler.md rule R58). -/
theorem State.main_of_enabled (off : s.cnten = false) (rdy : s.oscrdy = true) (enabled : s.enabled a = true) :
    a = .main := by
  obtain ⟨counting, irq⟩ := State.not_counting_nor_irq (.inr off)
  cases a with
  | main => rfl
  | timer => exact absurd (counting.symm.trans enabled) nofun
  | handler => exact absurd (irq.symm.trans enabled) nofun
  | osc => simp [State.enabled, rdy] at enabled

theorem State.Inv.main_of_suspended (inv : s.Inv) (lc : s.lc = .suspended) (h : StepsTo a s t) : a = .main := by
  obtain ⟨-, -, -, -, -, rdy, off⟩ := inv.suspended lc
  exact State.main_of_enabled off rdy h.1

/-- A suspension ends by `INIT`, `DEINIT` or `RESUME` alone (43_lifecycle.md rule R90). -/
theorem StepsTo.leaves_suspended (h : StepsTo a s t) (inv : s.Inv) (lc : s.lc = .suspended) (left : t.lc ≠ .suspended) :
    ∃ i, (i = .init ∨ i = .deinit ∨ i = .resume) ∧ s.fetch = some (encode i) := by
  cases h.effect
  case initStarts w _ at_ ok _ => exact ⟨.init, by simp, eq_encode_of_decode ok ▸ at_⟩
  case deinit w _ at_ ok => exact ⟨.deinit, by simp, eq_encode_of_decode ok ▸ at_⟩
  case resume w _ at_ ok _ => exact ⟨.resume, by simp, eq_encode_of_decode ok ▸ at_⟩
  case oscPollStarts wait _ => simp [inv.oscWait wait] at lc
  case suspend => exact absurd rfl left
  all_goals exact absurd lc left

/-- None of the words from `CP` on is one of the four commands that end a suspension or zero its timebase. -/
def State.staysSuspended (s : State) : Prop :=
  ∀ i, encode i ∈ s.stream.drop s.cp → i ≠ .init ∧ i ≠ .deinit ∧ i ≠ .reset ∧ i ≠ .resume

theorem State.mem_drop_of_fetch {w : CommandWord} (at_ : s.fetch = some w) : w ∈ s.stream.drop s.cp := by
  obtain ⟨inside, rfl⟩ := List.getElem?_eq_some_iff.1 at_
  rw [List.drop_eq_getElem_cons inside]
  exact List.mem_cons_self

theorem State.staysSuspended.not_reset (stays : s.staysSuspended) : s.atResetAction = false := by
  refine Bool.eq_false_iff.2 fun reset => ?_
  simp only [State.atResetAction, Bool.and_eq_true, Bool.or_eq_true, beq_iff_eq] at reset
  obtain ⟨-, (at_ | at_) | at_⟩ := reset <;> simpa using stays _ (State.mem_drop_of_fetch at_)

/-- The words after a step are among those before it. -/
theorem StepsTo.staysSuspended (h : StepsTo a s t) (stays : s.staysSuspended) : t.staysSuspended := by
  intro i mem
  rw [h.effect.stream] at mem
  obtain ⟨-, cp, -⟩ | ⟨cp, -⟩ := h.effect.cp_cases
  · rw [cp] at mem
    exact stays i (List.mem_of_mem_tail (List.tail_drop ▸ mem))
  · exact stays i (cp ▸ mem)

theorem KeepsTimebase.trans (first : KeepsTimebase s t) (second : KeepsTimebase t u) : KeepsTimebase s u := by
  obtain ⟨uptime, tick, pef, cmf, lost⟩ := first
  obtain ⟨uptime', tick', pef', cmf', lost'⟩ := second
  exact ⟨uptime'.trans uptime, tick'.trans tick, pef'.trans pef, cmf'.trans cmf, lost'.trans lost⟩

/-- Over such a stream every run of a Suspended block is MAIN's, and keeps the timebase and the suspension. -/
theorem runAgents_suspended (inv : s.Inv) (lc : s.lc = .suspended) (stays : s.staysSuspended)
    (run : runAgents l s = some t) : KeepsTimebase s t ∧ t.lc = .suspended ∧ ∀ a ∈ l, a = .main := by
  induction l generalizing s with
  | nil => cases run; exact ⟨⟨rfl, rfl, rfl, rfl, rfl⟩, lc, nofun⟩
  | cons a rest ih =>
    obtain ⟨u, first, rest_run⟩ := runAgents_cons.1 run
    obtain rfl := inv.main_of_suspended lc first
    have keeps : KeepsTimebase s u := by
      obtain ⟨reset, -⟩ | ⟨-, keeps⟩ := first.effect.main_timebase
      · simp [stays.not_reset] at reset
      · exact keeps
    have stays_lc : u.lc = .suspended := by
      by_contra left
      obtain ⟨i, ends, at_⟩ := first.leaves_suspended inv lc left
      obtain ⟨init, deinit, -, resume⟩ := stays i (State.mem_drop_of_fetch at_)
      simp [init, deinit, resume] at ends
    obtain ⟨rest_keeps, rest_lc, rest_main⟩ := ih (first.inv inv) stays_lc (first.staysSuspended stays) rest_run
    exact ⟨keeps.trans rest_keeps, rest_lc, List.forall_mem_cons.2 ⟨rfl, rest_main⟩⟩

/-- Settles O53: the one step a Suspended block has is MAIN's, and the run's facts are those of its steps. -/
theorem suspendedTimebaseIsFrozen : Obligations.SuspendedTimebaseIsFrozen := by
  refine ⟨fun a s t inv lc h => ?_, fun l s t inv lc stays run => ?_⟩
  · obtain rfl := inv.main_of_suspended lc h
    refine ⟨rfl, fun no_reset => ?_, h.leaves_suspended inv lc⟩
    obtain ⟨reset, -⟩ | ⟨-, keeps⟩ := h.effect.main_timebase
    · simp [reset] at no_reset
    · exact ⟨keeps, State.snapshot_of_keepsTimebase keeps⟩
  · obtain ⟨keeps, stays_lc, main⟩ := runAgents_suspended inv lc stays run
    exact ⟨keeps, State.snapshot_of_keepsTimebase keeps, stays_lc, main⟩

/-- A frozen wait whose poll holds is the only state of every run from it. -/
theorem runAgents_frozen (run : runAgents l s = some t) (off : s.cnten = false) (rdy : s.oscrdy = true)
    (holds : agentStep .main s = .next s) : t = s := by
  refine runAgents_preserves (P := (· = s)) (fun a _ u v here h => ?_) rfl run
  obtain rfl := here
  obtain rfl := State.main_of_enabled off rdy h.1
  cases holds.symm.trans h.2
  rfl

/-- Settles O56: at its start a delay's difference is 0, and while Suspended nothing moves it. -/
theorem delayWhileSuspendedNeverCompletes : Obligations.DelayWhileSuspendedNeverCompletes := by
  intro i d s delay pos inv lc
  obtain ⟨-, -, -, -, -, rdy, off⟩ := inv.suspended lc
  have allowed : s.lc ≠ .uninitialized := by simp [lc]
  have short (start : Word) : waitOver start start d = false := by
    rw [← Bool.not_eq_true, waitOver_self]
    exact pos
  obtain rfl | rfl := delay
  · refine ⟨_, execDelayMs_waits allowed pos, nofun, fun l t run => ?_⟩
    cases runAgents_frozen run off rdy (Effect.msPollHolds _ d rfl (short _)).agentStep_eq
    exact ⟨rfl, rfl, lc⟩
  · refine ⟨_, execDelayUs_waits allowed pos, nofun, fun l t run => ?_⟩
    cases runAgents_frozen run off rdy (Effect.usPollHolds _ d rfl (short _)).agentStep_eq
    exact ⟨rfl, rfl, lc⟩

/-! ### The start of the block -/

/-- Settles O57: both ways `INIT` completes end in `finishInit`, on a zeroed timebase with the oscillator ready and
requested. -/
theorem initLeavesARunningBlock : Obligations.InitLeavesARunningBlock := by
  intro s t inv h advanced completes
  obtain ⟨u, rfl, zero, oscen, rdy, res, fault⟩ : ∃ u : State, t = u.finishInit ∧ u.timebaseZero ∧ u.oscen = true ∧
      u.oscrdy = true ∧ u.res = s.res ∧ u.fault = s.fault := by
    obtain wait | ⟨idle, at_⟩ := completes
    · cases rdy : s.oscrdy with
      | true =>
        cases (Effect.oscPollStarts wait rdy).agentStep_eq.symm.trans h.2
        exact ⟨s, rfl, inv.oscWaitZero wait, inv.oscRequested wait, rdy, rfl, rfl⟩
      | false =>
        cases (Effect.oscPollHolds wait rdy).agentStep_eq.symm.trans h.2
        simp at advanced
    · have init := (agentStep_main_of_fetch idle at_ (decode_encode .init)).symm.trans h.2
      cases rdy : s.oscrdy with
      | true =>
        cases (execInit_of_ready rdy).symm.trans init
        exact ⟨_, rfl, ⟨rfl, rfl, rfl, rfl, rfl⟩, rfl, rdy, rfl, rfl⟩
      | false =>
        cases (execInit_of_not_ready rdy).symm.trans init
        simp at advanced
  obtain ⟨uptime, tick, pef, cmf, lost⟩ := zero
  exact ⟨rfl, uptime, tick, pef, cmf, lost, oscen, rdy, rfl, rfl, rfl, rfl, rfl, by simp [State.counting, rdy], res,
    fault⟩

/-- Settles O58: every step but the OSC agent's keeps the wait and the missing oscillator, and the invariant gives
the rest. -/
theorem initHangsWithoutTheOscillator : Obligations.InitHangsWithoutTheOscillator := by
  intro l s t inv wait rdy no_osc run
  have hangs : t.Inv ∧ t.ms = .waitOsc ∧ t.oscrdy = false ∧ t.cp = s.cp := by
    refine runAgents_preserves (P := fun u => u.Inv ∧ u.ms = .waitOsc ∧ u.oscrdy = false ∧ u.cp = s.cp)
      (fun a mem u v ⟨inv, wait, rdy, cp⟩ h => ?_) ⟨inv, wait, rdy, rfl⟩ run
    have not_osc : a ≠ .osc := fun osc => no_osc (osc ▸ mem)
    obtain ⟨stays, ready⟩ := h.effect.oscWait_stays wait rdy
    refine ⟨h.inv inv, stays, Bool.eq_false_iff.2 fun set => not_osc (ready.1 set), ?_⟩
    obtain ⟨-, same, -⟩ | ⟨-, idle, -⟩ := h.effect.wait_cases (by simp [wait])
    · exact same.trans cp
    · simp [stays] at idle
  obtain ⟨inv_t, wait_t, -, cp⟩ := hangs
  exact ⟨wait_t, cp, inv_t.oscWait wait_t, inv_t.waitsUnfaulted (by simp [wait_t])⟩

/-- Settles O60: with the oscillator ready `INIT` writes every field but the ones named. -/
theorem deinitThenInitIsAFreshStart : Obligations.DeinitThenInitIsAFreshStart := by
  intro s d rdy draw_rdy
  refine ⟨_, _, _, rfl, execInit_of_ready ?_, execInit_of_ready ?_, ?_⟩
  · exact rdy
  · exact draw_rdy
  · simp [State.finishInit, State.startAction, State.resetAction, State.clearFlags, State.complete, State.powerOn,
      rdy, draw_rdy]

end Sys2Proof.Machine

/-! # The assembler

Literals, lines and programs (30_encoding.md rule R53; 00_scope.md rule R7). A literal is read digit by digit; its
characters are neither blanks nor the comment's `;`, so a delay's line has the mnemonic and the literal as its two
parts. -/

namespace Sys2Proof.Machine

variable {base v : Nat} {m n cs : List Char}

/-! ### Literals -/

/-- A run of digits, written by any characters that stand for them, is read as their value after the digits before. -/
theorem digitsFrom_map {f : Nat → Char} {ds : List Nat} (reads : ∀ x ∈ ds, digitValue base (f x) = some x)
    (acc : Nat) : digitsFrom base acc (ds.map f) = some (acc * base ^ ds.length + Nat.ofDigits base ds.reverse) := by
  induction ds generalizing acc with
  | nil => simp [digitsFrom]
  | cons x rest ih =>
    obtain ⟨reads_x, reads_rest⟩ := List.forall_mem_cons.1 reads
    simp only [List.map_cons, digitsFrom, reads_x, ih reads_rest, List.reverse_cons, Nat.ofDigits_append,
      List.length_reverse, Nat.ofDigits_singleton, List.length_cons, pow_succ, Option.some.injEq]
    ring

theorem digits_map {f : Nat → Char} {ds : List Nat} (some_digit : ds ≠ [])
    (reads : ∀ x ∈ ds, digitValue base (f x) = some x) :
    digits base (ds.map f) = some (Nat.ofDigits base ds.reverse) := by
  rw [digits, if_neg (by simpa using some_digit), digitsFrom_map reads, Nat.zero_mul, Nat.zero_add]

theorem digitValue_decimal : ∀ x < 10, digitValue 10 (Nat.digitChar x) = some x := by decide

theorem digitValue_hexadecimal : ∀ x < 16,
    digitValue 16 (Nat.digitChar x) = some x ∧ digitValue 16 (Nat.digitChar x).toUpper = some x := by decide

/-- A separator stands for no digit (00_scope.md rule R7). -/
theorem digitValue_separator : digitValue 16 '_' = none := by decide

/-- A text without `x` does not begin with `0x`, so it is read as decimal. -/
theorem literal_decimal (no_x : 'x' ∉ cs) : literal cs = digits 10 cs := by
  unfold literal
  split
  next => simp at no_x
  next => rfl

theorem literal_hexadecimal (cs : List Char) : literal ('0' :: 'x' :: cs) = digits 16 (cs.filter (· ≠ '_')) := rfl

/-- Digits in hexadecimal after `0x`, in any writing. -/
theorem literal_hexadecimal_map {f : Nat → Char} {ds : List Nat} (some_digit : ds ≠ [])
    (reads : ∀ x ∈ ds, digitValue 16 (f x) = some x) :
    literal ('0' :: 'x' :: ds.map f) = some (Nat.ofDigits 16 ds.reverse) := by
  have no_separator : (ds.map f).filter (· ≠ '_') = ds.map f := by
    refine List.filter_eq_self.2 fun c mem => ?_
    obtain ⟨x, mem_x, rfl⟩ := List.mem_map.1 mem
    have reads_x := reads x mem_x
    simp only [ne_eq, decide_eq_true_eq]
    intro separator
    simp [separator, digitValue_separator] at reads_x
  rw [literal_hexadecimal, no_separator, digits_map some_digit reads]

/-! ### The characters of a literal -/

/-- Neither a blank nor the start of a comment. -/
def isText (c : Char) : Prop := isBlank c = false ∧ c ≠ ';'

/-- A digit is neither a blank nor the start of a comment. -/
theorem isText_of_digitValue {c : Char} (reads : digitValue base c = some v) : isText c := by
  have digit_of (d : Char) (none_reads : digitValue base d = none) : c ≠ d := by
    rintro rfl
    simp [none_reads] at reads
  have space := digit_of ' ' (by simp [digitValue])
  have tab := digit_of '\t' (by simp [digitValue])
  exact ⟨by simp [isBlank, space, tab], digit_of ';' (by simp [digitValue])⟩

theorem isText_of_digitsFrom {acc : Nat} (reads : digitsFrom base acc cs = some v) : ∀ c ∈ cs, isText c := by
  induction cs generalizing acc with
  | nil => simp
  | cons c rest ih =>
    simp only [digitsFrom] at reads
    split at reads
    next x reads_c => exact List.forall_mem_cons.2 ⟨isText_of_digitValue reads_c, ih reads⟩
    next => cases reads

theorem digits_some (reads : digits base cs = some v) : cs ≠ [] ∧ ∀ c ∈ cs, isText c := by
  unfold digits at reads
  split at reads
  next => cases reads
  next some_digit => exact ⟨some_digit, isText_of_digitsFrom reads⟩

/-- A literal is text of one part. -/
theorem literal_some (reads : literal n = some v) : n ≠ [] ∧ ∀ c ∈ n, isText c := by
  unfold literal at reads
  split at reads
  next rest =>
    obtain ⟨-, text⟩ := digits_some reads
    refine ⟨nofun, List.forall_mem_cons.2 ⟨by unfold isText; decide, List.forall_mem_cons.2 ⟨by unfold isText; decide,
      fun c mem => ?_⟩⟩⟩
    by_cases separator : c = '_'
    · subst separator
      unfold isText
      decide
    · exact text c (List.mem_filter.2 ⟨mem, by simpa using separator⟩)
  next => exact digits_some reads

/-! ### Lines -/

theorem stripComment_comment (cs comment : List Char) : stripComment (cs ++ ';' :: comment) = stripComment cs := by
  induction cs with
  | nil => rfl
  | cons c cs ih =>
    simp only [stripComment] at ih
    simp only [stripComment, List.cons_append, List.takeWhile_cons, ih]

theorem stripComment_of_text (text : ∀ c ∈ cs, c ≠ ';') : stripComment cs = cs :=
  List.takeWhile_eq_self_iff.2 fun c mem => decide_eq_true (text c mem)

/-- Text without blanks goes on the part under way. -/
theorem partsFrom_append (part : List Char) (text : ∀ c ∈ cs, isBlank c = false) (rest : List Char) :
    partsFrom part (cs ++ rest) = partsFrom (part ++ cs) rest := by
  induction cs generalizing part with
  | nil => simp
  | cons c cs ih =>
    obtain ⟨text_c, text_cs⟩ := List.forall_mem_cons.1 text
    simp [partsFrom, text_c, ih _ text_cs]

/-- Two texts with a blank between them are the two parts of their line. -/
theorem partsFrom_two (text_m : ∀ c ∈ m, isText c) (some_m : m ≠ []) (text_n : ∀ c ∈ n, isText c) (some_n : n ≠ []) :
    partsFrom [] (stripComment (m ++ ' ' :: n)) = [m, n] := by
  have no_comment : ∀ c ∈ m ++ ' ' :: n, c ≠ ';' := by
    intro c mem
    obtain mem | mem := List.mem_append.1 mem
    · exact (text_m c mem).2
    obtain rfl | mem := List.mem_cons.1 mem
    · decide
    · exact (text_n c mem).2
  have second := partsFrom_append [] (fun c mem => (text_n c mem).1) []
  rw [List.append_nil, List.nil_append] at second
  rw [stripComment_of_text no_comment, partsFrom_append [] (fun c mem => (text_m c mem).1), List.nil_append, partsFrom,
    if_pos (by decide), if_neg some_m, second, partsFrom, if_neg some_n]

/-- The line of a delay's mnemonic and a literal. -/
theorem parseLine_delay
    (delay : m = ['D', 'E', 'L', 'A', 'Y', '_', 'M', 'S'] ∨ m = ['D', 'E', 'L', 'A', 'Y', '_', 'U', 'S'])
    (reads : literal n = some v) : parseLine (m ++ ' ' :: n) = (assembleDelay m n).map some := by
  obtain ⟨some_n, text_n⟩ := literal_some reads
  obtain ⟨text_m, some_m, no_bare⟩ : (∀ c ∈ m, isText c) ∧ m ≠ [] ∧ bareMnemonic m = none := by
    obtain rfl | rfl := delay <;> exact ⟨by simp [isText, isBlank], by simp, rfl⟩
  rw [parseLine, partsFrom_two text_m some_m text_n some_n]
  simp only [no_bare, Option.isSome_none, Bool.false_eq_true, if_false]
  cases assembleDelay m n <;> rfl

theorem assembleDelay_of_lt {i : Instr} (reads : literal n = some v) (inRange : v < 2 ^ 32)
    (delay : delayMnemonic m (BitVec.ofNat 32 v) = some i) : assembleDelay m n = .ok i := by
  simp only [assembleDelay, reads, durationInRange, decide_eq_true inRange, if_true, delay]

theorem assembleDelay_of_le (reads : literal n = some v) (outOfRange : 2 ^ 32 ≤ v) (m : List Char) :
    assembleDelay m n = .error .outOfRange := by
  simp only [assembleDelay, reads, durationInRange, decide_eq_false (Nat.not_lt.2 outOfRange), Bool.false_eq_true,
    if_false]

/-- The word of an operand and an opcode in numbers (30_encoding.md rule R47). -/
theorem wordOf_eq_ofNat (op : BitVec 8) (inRange : v < 2 ^ 32) :
    wordOf { op := op, rsvd := 0, arg := BitVec.ofNat 32 v } = BitVec.ofNat 64 (v * 2 ^ 32 + op.toNat) := by
  have low : op.toNat < 2 ^ 32 := op.isLt.trans (by decide)
  apply BitVec.eq_of_toNat_eq
  rw [wordOf_rsvd_zero, BitVec.toNat_append, BitVec.toNat_setWidth, Nat.mod_eq_of_lt low,
    ← Nat.shiftLeft_add_eq_or_of_lt low, Nat.shiftLeft_eq, BitVec.toNat_ofNat, BitVec.toNat_ofNat,
    Nat.mod_eq_of_lt inRange, Nat.mod_eq_of_lt (by omega)]

/-- No text but its mnemonic is a bare command's (30_encoding.md rule R49). -/
theorem mnemonic_of_bareMnemonic {i : Instr} (bare : bareMnemonic m = some i) : i.mnemonic = String.ofList m := by
  unfold bareMnemonic at bare
  split_ifs at bare <;> cases bare <;> subst m <;> rfl

/-! ### Programs -/

/-- The lines of a program that parse assemble to their words, up to the first line that is refused. -/
theorem assemble_append {lines : List (List Char)} {os : List (Option Instr)}
    (parses : List.Forall₂ (fun line o => parseLine line = .ok o) lines os) (more : List (List Char)) :
    assemble (lines ++ more) = (assemble more).map ((os.filterMap id).map encode ++ ·) := by
  induction parses with
  | nil => simp; cases assemble more <;> rfl
  | @cons line o lines os parses_line _ ih =>
    rw [List.cons_append, assemble, parses_line]
    cases o with
    | none => exact ih
    | some i =>
      simp only [ih]
      cases assemble more <;> rfl

/-- Settles O12: literals digit by digit, lines part by part and programs line by line. -/
theorem assemblerWritesTheWord : Obligations.AssemblerWritesTheWord := by
  refine ⟨fun ds some_digit below => ?_, fun ds some_digit below => ⟨?_, ?_⟩, fun cs ds => ?_,
    fun n v reads inRange => ?_, fun n v reads outOfRange => ?_, ?_, fun m i => mnemonic_of_bareMnemonic,
    fun cs comment => ?_, fun lines os parses => ⟨?_, fun bad e rest refused => ?_⟩⟩
  · rw [literal_decimal, digits_map some_digit fun x mem => digitValue_decimal x (below x mem)]
    intro mem
    obtain ⟨x, mem_x, is_x⟩ := List.mem_map.1 mem
    have not_x : ∀ x < 10, Nat.digitChar x ≠ 'x' := by decide
    exact not_x x (below x mem_x) is_x
  · exact literal_hexadecimal_map some_digit fun x mem => (digitValue_hexadecimal x (below x mem)).1
  · exact literal_hexadecimal_map some_digit fun x mem => (digitValue_hexadecimal x (below x mem)).2
  · simp [literal_hexadecimal]
  · have lineMs := parseLine_delay (.inl rfl) reads
    have lineUs := parseLine_delay (.inr rfl) reads
    rw [assembleDelay_of_lt reads inRange rfl] at lineMs lineUs
    exact ⟨lineMs, wordOf_eq_ofNat 0x20 inRange, lineUs, wordOf_eq_ofNat 0x21 inRange⟩
  · have lineMs := parseLine_delay (.inl rfl) reads
    have lineUs := parseLine_delay (.inr rfl) reads
    rw [assembleDelay_of_le reads outOfRange] at lineMs lineUs
    exact ⟨lineMs, lineUs, assembleDelay_of_le reads outOfRange⟩
  · decide
  · rw [parseLine, stripComment_comment, parseLine]
  · have words := assemble_append parses []
    simpa [assemble, Except.map] using words
  · rw [assemble_append parses, assemble, refused]
    rfl

end Sys2Proof.Machine

/-! # How MAIN's waits end in infinite runs

The last law of 42_delay.md section 3, under the fairness of 70_reset_and_hazards.md rule R117. A wait lasts until the
poll that completes it, so a run in which no poll does waits for ever; there a fair timer makes the count that the
delay compares grow without bound, and of the polls, which never stop, one falls in the window of rule R79. -/

namespace Sys2Proof.Machine

variable {states : Nat → State} {agents : Nat → Agent} {b : Agent} {m n k : Nat} {d : Word}

/-! ### The agents between two states of a run -/

theorem agentsBetween_self (agents : Nat → Agent) (n : Nat) : agentsBetween agents n n = [] := by
  simp [agentsBetween]

theorem agentsBetween_succ (agents : Nat → Agent) (order : m ≤ n) :
    agentsBetween agents m (n + 1) = agentsBetween agents m n ++ [agents n] := by
  rw [agentsBetween, Nat.succ_sub order, List.range'_concat, List.map_append, agentsBetween, one_mul,
    Nat.add_sub_cancel' order, List.map_singleton]

/-- The count of one agent's steps from the start. -/
def stepsOf (agents : Nat → Agent) (b : Agent) (n : Nat) : Nat := (agentsBetween agents 0 n).count b

@[simp] theorem stepsOf_zero (agents : Nat → Agent) (b : Agent) : stepsOf agents b 0 = 0 := rfl

theorem stepsOf_succ (agents : Nat → Agent) (b : Agent) (n : Nat) :
    stepsOf agents b (n + 1) = stepsOf agents b n + if agents n = b then 1 else 0 := by
  rw [stepsOf, agentsBetween_succ agents n.zero_le, List.count_append, List.count_singleton, stepsOf]
  simp

theorem stepsOf_add_between (agents : Nat → Agent) (b : Agent) (order : m ≤ n) :
    stepsOf agents b n = stepsOf agents b m + (agentsBetween agents m n).count b := by
  induction n, order using Nat.le_induction with
  | base => simp [agentsBetween_self]
  | succ n order ih =>
    rw [stepsOf_succ, ih, agentsBetween_succ agents order, List.count_append, List.count_singleton]
    simp [Nat.add_assoc]

/-- An agent that steps again and again steps any number of times. -/
theorem exists_le_stepsOf (often : ∀ n, ∃ m, n ≤ m ∧ agents m = b) (k : Nat) : ∃ n, k ≤ stepsOf agents b n := by
  induction k with
  | zero => exact ⟨0, Nat.zero_le _⟩
  | succ k ih =>
    obtain ⟨n, reached⟩ := ih
    obtain ⟨m, order, at_m⟩ := often n
    refine ⟨m + 1, ?_⟩
    rw [stepsOf_succ, if_pos at_m, stepsOf_add_between agents b order]
    omega

/-- Among steps of MAIN that never stop, with at most `2^32 − d` steps of another agent between two of them, the first
that comes after `d` of those comes before `2^32` of them (70_reset_and_hazards.md rule R113). -/
theorem exists_poll_in_window {d : Nat} (other : b ≠ .main) (inRange : d < 2 ^ 32)
    (often : ∀ n, ∃ m, n ≤ m ∧ agents m = .main) (grows : ∃ n, d ≤ stepsOf agents b n)
    (window : ∀ m n, m ≤ n → .main ∉ agentsBetween agents m n → (agentsBetween agents m n).count b ≤ 2 ^ 32 - d) :
    ∃ n, agents n = .main ∧ d ≤ stepsOf agents b n % 2 ^ 32 := by
  obtain rfl | pos := d.eq_zero_or_pos
  · obtain ⟨n, -, poll⟩ := often 0
    exact ⟨n, poll, Nat.zero_le _⟩
  have late_poll : ∃ n, agents n = .main ∧ d ≤ stepsOf agents b n := by
    obtain ⟨N, reached⟩ := grows
    obtain ⟨n, order, poll⟩ := often N
    exact ⟨n, poll, by rw [stepsOf_add_between agents b order]; omega⟩
  classical
  obtain ⟨poll, reached⟩ := Nat.find_spec late_poll
  have early : ∀ k ≤ Nat.find late_poll,
      ∃ m ≤ k, stepsOf agents b m < d ∧ .main ∉ agentsBetween agents m k := by
    intro k
    induction k with
    | zero => exact fun _ => ⟨0, le_rfl, pos, by simp [agentsBetween_self]⟩
    | succ k ih =>
      intro before
      by_cases poll_k : agents k = .main
      · have short : stepsOf agents b k < d := not_le.1 (not_and.1 (Nat.find_min late_poll before) poll_k)
        refine ⟨k + 1, le_rfl, ?_, by simp [agentsBetween_self]⟩
        rwa [stepsOf_succ, if_neg (poll_k ▸ other.symm)]
      · obtain ⟨m, order, short, no_poll⟩ := ih (by omega)
        refine ⟨m, by omega, short, ?_⟩
        rw [agentsBetween_succ agents order]
        simp [no_poll, Ne.symm poll_k]
  obtain ⟨m, order, short, no_poll⟩ := early _ le_rfl
  have inside := window m _ order no_poll
  refine ⟨_, poll, ?_⟩
  rw [Nat.mod_eq_of_lt]
  · exact reached
  · rw [stepsOf_add_between agents b order]
    omega

/-! ### The states of a run -/

/-- A part of an infinite run is a run of its agents. -/
theorem IsRun.runAgents_between (run : IsRun states agents) (order : m ≤ n) :
    runAgents (agentsBetween agents m n) (states m) = some (states n) := by
  induction n, order using Nat.le_induction with
  | base => simp [agentsBetween_self, runAgents]
  | succ n order ih =>
    rw [agentsBetween_succ agents order]
    exact runAgents_append.2 ⟨_, ih, runAgents_cons.2 ⟨_, run n, rfl⟩⟩

theorem IsRun.inv (run : IsRun states agents) (inv : (states 0).Inv) (n : Nat) : (states n).Inv :=
  runAgents_inv inv (run.runAgents_between n.zero_le)

section
/-! ### A wait in a run -/

variable (run : IsRun states agents) (inv : (states 0).Inv) (wait : (states 0).ms ≠ .idle)

theorem waitsUntil_zero (states : Nat → State) : WaitsUntil states 0 := fun k bound => by
  rw [Nat.le_zero.1 bound]

theorem WaitsUntil.mono (waits : WaitsUntil states n) (order : m ≤ n) : WaitsUntil states m :=
  fun k bound => waits k (bound.trans order)

theorem WaitsUntil.succ (waits : WaitsUntil states n) (stays : (states (n + 1)).ms = (states n).ms) :
    WaitsUntil states (n + 1) := by
  intro k bound
  obtain earlier | rfl := Nat.le_succ_iff.1 bound
  · exact waits k earlier
  · exact stays.trans (waits n le_rfl)

include run wait

/-- While the wait lasts MAIN stays on its command, in its lifecycle state. -/
theorem WaitsUntil.keeps (waits : WaitsUntil states n) :
    (states n).cp = (states 0).cp ∧ (states n).lc = (states 0).lc := by
  induction n with
  | zero => exact ⟨rfl, rfl⟩
  | succ n ih =>
    have before := waits.mono n.le_succ
    obtain ⟨cp, lc⟩ := ih before
    have waiting : (states n).ms ≠ .idle := by rwa [before n le_rfl]
    obtain ⟨-, same_cp, same_lc⟩ | ⟨-, idle, -⟩ := (run n).effect.wait_cases waiting
    · exact ⟨same_cp.trans cp, same_lc.trans lc⟩
    · exact absurd ((waits (n + 1) le_rfl).symm.trans idle) wait

include inv

/-- A step in the wait keeps it, or is the poll that completes it. -/
theorem WaitsUntil.succ_or_completes (waits : WaitsUntil states n) :
    WaitsUntil states (n + 1) ∨ WaitCompletes states agents := by
  have waiting : (states n).ms ≠ .idle := by rwa [waits n le_rfl]
  obtain ⟨cp, -⟩ := waits.keeps run wait
  obtain ⟨stays, -⟩ | ⟨poll, idle, advanced⟩ := (run n).effect.wait_cases waiting
  · exact .inl (waits.succ stays)
  · have fault : (states (n + 1)).fault = 0 := by
      obtain keeps | ⟨-, idle, -⟩ := (run n).effect.fault_cases
      · exact keeps.trans ((run.inv inv n).waitsUnfaulted waiting)
      · exact absurd idle waiting
    exact .inr ⟨n, waits, poll, idle, advanced.trans (congrArg (· + 1) cp), fault⟩

/-- Under fairness to MAIN a waiting MAIN polls again (70_reset_and_hazards.md rule R117). -/
theorem WaitsUntil.exists_poll (fair : WeaklyFair .main states agents) (waits : WaitsUntil states n) :
    ∃ m, n ≤ m ∧ WaitsUntil states m ∧ agents m = .main := by
  have waits_on {m : Nat} (no_poll : ∀ k, n ≤ k → k < m → agents k ≠ .main) (order : n ≤ m) : WaitsUntil states m := by
    induction m, order using Nat.le_induction with
    | base => exact waits
    | succ m order ih =>
      obtain ⟨-, ms, -⟩ := (run m).effect.keepsMain_of_ne_main (no_poll m order m.lt_succ_self)
      exact (ih fun k lower upper => no_poll k lower (by omega)).succ ms
  have polls : ∃ m, n ≤ m ∧ agents m = .main := by
    by_contra never
    refine never (fair n fun m order => ?_)
    have waits_m := waits_on (fun k lower _ poll => never ⟨k, lower, poll⟩) order
    exact (run.inv inv m).enabled_main_of_wait (by rwa [waits_m m le_rfl])
  classical
  obtain ⟨order, poll⟩ := Nat.find_spec polls
  exact ⟨_, order, waits_on (fun k lower upper poll_k => Nat.find_min polls upper ⟨lower, poll_k⟩) order, poll⟩

/-- A wait completes when its polls compare the count of an agent that keeps stepping, and one of them is made in the
window of 42_delay.md rule R79. -/
theorem waitCompletes_of_polls (other : b ≠ .main) (fair : WeaklyFair .main states agents)
    (window : PollsInWindow b d states agents)
    (poll : ∀ n, WaitsUntil states n → agents n = .main →
      ((states (n + 1)).ms = .idle ↔ d.toNat ≤ stepsOf agents b n % 2 ^ 32))
    (grows : (∀ n, WaitsUntil states n) → ∃ n, d.toNat ≤ stepsOf agents b n) : WaitCompletes states agents := by
  by_contra never
  have forever : ∀ n, WaitsUntil states n := by
    intro n
    induction n with
    | zero => exact waitsUntil_zero states
    | succ n ih => exact (ih.succ_or_completes run inv wait).resolve_right never
  have often (n : Nat) : ∃ m, n ≤ m ∧ agents m = .main := by
    obtain ⟨m, order, -, poll⟩ := (forever n).exists_poll run inv wait fair
    exact ⟨m, order, poll⟩
  obtain ⟨n, poll_n, reached⟩ := exists_poll_in_window other d.isLt often (grows forever)
    fun m n order no_poll => window m n order (forever n) no_poll
  have idle := (poll n (forever n) poll_n).2 reached
  exact wait ((forever (n + 1) (n + 1) le_rfl).symm.trans idle)

/-- In an endless wait in Running a fair timer ticks any number of times. -/
theorem exists_le_ticks (lc : (states 0).lc = .running) (fair : WeaklyFair .timer states agents)
    (forever : ∀ n, WaitsUntil states n) (k : Nat) : ∃ n, k ≤ stepsOf agents .timer n := by
  refine exists_le_stepsOf (fun n => fair n fun m _ => ?_) k
  obtain ⟨-, same⟩ := (forever m).keeps run wait
  exact (run.inv inv m).counts.2 (same.trans lc)

/-- And while no period is lost its handler serves any number of periods: but for two, every period's ticks have been
served (40_tick_and_handler.md rule R68). -/
theorem exists_le_services (lc : (states 0).lc = .running) (inPeriod : (states 0).tickInPeriod)
    (fair : WeaklyFair .timer states agents) (served : NoPeriodLostInWait states)
    (forever : ∀ n, WaitsUntil states n) (k : Nat) : ∃ n, k ≤ stepsOf agents .handler n := by
  obtain ⟨n, ticks⟩ := exists_le_ticks run inv wait lc fair forever (Config.period * (k + 2))
  refine ⟨n, ?_⟩
  have part := run.runAgents_between n.zero_le
  obtain ⟨cp, -⟩ := (forever n).keeps run wait
  have balance := runAgents_balance part (runAgents_wait wait part cp).2 inPeriod
  have below := State.tickInPeriod_iff.1
    (runAgents_preserves (fun _ _ _ _ bound h => h.tickInPeriod bound) inPeriod part)
  have one_pending := (states n).pef.toNat_le
  have none_lost : (states n).lost = (states 0).lost := served n (forever n)
  simp only [State.uncounted, none_lost, ← stepsOf.eq_def, Config.period] at *
  omega

end

/-! ### The oscillator's wait -/

/-- An agent's step leads to one state. -/
theorem StepsTo.eq_of_agentStep {a : Agent} {s t u : State} (h : StepsTo a s t) (answers : agentStep a s = .next u) :
    t = u := by
  cases answers.symm.trans h.2
  rfl

/-- With the oscillator ready MAIN alone can step, and its poll completes `INIT` (43_lifecycle.md rule R84). -/
theorem IsRun.oscWait_completes (run : IsRun states agents) (inv : (states n).Inv) (wait : (states n).ms = .waitOsc)
    (rdy : (states n).oscrdy = true) : states (n + 1) = (states n).finishInit := by
  have main : agents n = .main := by
    have lc := inv.oscWait wait
    have enabled := (run n).1
    cases who : agents n with
    | main => rfl
    | timer => simp [inv.running_of_enabled (.inl who) enabled] at lc
    | handler => simp [inv.running_of_enabled (.inr who) enabled] at lc
    | osc => simp [who, State.enabled, rdy] at enabled
  have poll := run n
  rw [main] at poll
  exact poll.eq_of_agentStep (Effect.oscPollStarts wait rdy).agentStep_eq

/-- A wait for an oscillator that is ready, or whose agent ever steps, comes to a state in it where it is ready. -/
theorem IsRun.exists_ready (run : IsRun states agents) (inv : (states 0).Inv) (wait : (states 0).ms = .waitOsc)
    (rises : (states 0).oscrdy = true ∨ ∃ k, agents k = .osc) :
    ∃ n, (states n).ms = .waitOsc ∧ (states n).cp = (states 0).cp ∧ (states n).oscrdy = true := by
  cases rdy : (states 0).oscrdy with
  | true => exact ⟨0, wait, rfl, rdy⟩
  | false =>
    have steps : ∃ k, agents k = .osc := rises.resolve_left (by simp [rdy])
    classical
    have no_osc : .osc ∉ agentsBetween agents 0 (Nat.find steps) := by
      simp only [agentsBetween, List.mem_map, List.mem_range'_1, not_exists, not_and]
      exact fun k ⟨_, before⟩ => Nat.find_min steps (by omega)
    obtain ⟨wait_k, cp, -, -⟩ :=
      initHangsWithoutTheOscillator _ _ _ inv wait rdy no_osc (run.runAgents_between (Nat.zero_le _))
    have osc := run (Nat.find steps)
    rw [Nat.find_spec steps] at osc
    refine ⟨Nat.find steps + 1, ?_⟩
    rw [osc.eq_of_agentStep rfl]
    exact ⟨wait_k, cp, rfl⟩

/-- Settles O59: the oscillator's wait ends in the step after the ready oscillator; and a delay is polled again and
again while what it compares grows. -/
theorem waitsCompleteUnderFairness : Obligations.WaitsCompleteUnderFairness := by
  refine fun states agents run inv => ⟨fun wait rises => ?_,
    fun wait fair n waits => waits.exists_poll run inv wait fair,
    fun d wait lc inPeriod fair fair_timer served window => ?_,
    fun d wait lc inPeriod fair fair_timer served window => ?_⟩
  · obtain ⟨n, wait_n, cp, rdy⟩ := run.exists_ready inv wait rises
    have inv_n := run.inv inv n
    obtain ⟨uptime, tick, -⟩ := inv_n.oscWaitZero wait_n
    refine ⟨n + 1, ?_⟩
    rw [run.oscWait_completes inv_n wait_n rdy]
    exact ⟨rfl, rfl, congrArg (· + 1) cp, uptime, tick⟩
  · have waiting : (states 0).ms ≠ .idle := by simp [wait]
    refine waitCompletes_of_polls run inv waiting (by decide) fair window (fun n waits poll => ?_)
      fun forever => exists_le_services run inv waiting lc inPeriod fair_timer served forever _
    exact poll_of_delayMs (run.runAgents_between n.zero_le) (waits.keeps run waiting).1 wait (poll ▸ run n)
  · have waiting : (states 0).ms ≠ .idle := by simp [wait]
    refine waitCompletes_of_polls run inv waiting (by decide) fair window (fun n waits poll => ?_)
      fun forever => exists_le_ticks run inv waiting lc fair_timer forever _
    exact poll_of_delayUs (run.runAgents_between n.zero_le) (waits.keeps run waiting).1 wait inPeriod (served n waits)
      (poll ▸ run n)

end Sys2Proof.Machine
